-- ==== Sys2Proof/Word.lean ====
section
/-!
DEFINITION. The word type of the block and its plainest names.
Every datum is an unsigned 8-bit byte (00_scope.md R13, R14); a ByteSeq is a finite list of bytes.
Addition wraps modulo 256 and `^^^` is the bitwise exclusive-or of two bytes (R15).
-/

namespace Sys2Proof

/-- A byte: an integer 0..255, bit 7 the most significant (R14). -/
abbrev Byte := BitVec 8

/-- A finite list of bytes, indices from 0 (R14). -/
abbrev ByteSeq := List Byte

end Sys2Proof
end

