-- ==== Sys2Proof/Syntax.lean ====
section
/-!
DEFINITION. The commands of the block: one constructor per row of spec/opcode_table.json (30_encoding.md R61), and the
request as the block latches it (10_state.md R21).
Every command carries both operand sequences as the frame gives them: a request whose operands break its row is a
command too, and answers BadOperand (R63), so no shape is shut out here.
-/

namespace Sys2Proof

/-- A complete request: the opcode byte and the two operands (R21, R60). -/
structure Request where
  /-- `OP[7:0]`. -/
  op : Byte
  /-- Operand A. -/
  a : ByteSeq
  /-- Operand B. -/
  b : ByteSeq
deriving DecidableEq, Repr, Inhabited

/-- The five commands (R3, R61), each with its operands A and B. -/
inductive Instr where
  /-- CSUM: the 8-bit checksum of A (R80). -/
  | csum (a b : ByteSeq)
  /-- DERIVE: the key for the checksum byte A[0] (R90). -/
  | derive (a b : ByteSeq)
  /-- XFORM: B under the keystream of the key A (R103). -/
  | xform (a b : ByteSeq)
  /-- PACK: the token of the address A (R122). -/
  | pack (a b : ByteSeq)
  /-- UNPACK: the address of the token A (R123). -/
  | unpack (a b : ByteSeq)
deriving DecidableEq, Repr

/-- Operand A of a command. -/
def Instr.opA : Instr → ByteSeq
  | .csum a _ => a
  | .derive a _ => a
  | .xform a _ => a
  | .pack a _ => a
  | .unpack a _ => a

/-- Operand B of a command. -/
def Instr.opB : Instr → ByteSeq
  | .csum _ b => b
  | .derive _ b => b
  | .xform _ b => b
  | .pack _ b => b
  | .unpack _ b => b

end Sys2Proof
end

