-- ==== Sys2Proof/WellFormed.lean ====
section
/-!
DEFINITION. Which commands a request frame can carry: each operand's length fits its unsigned 32-bit length field
(30_encoding.md R60). Nothing else is asked: a wrong operand shape is a command that answers BadOperand.
-/

namespace Sys2Proof

/-- A length that a 32-bit length field can hold (R60). -/
def lengthFits (x : ByteSeq) : Bool :=
  decide (x.length < 2 ^ 32)

/-- A request that a frame can carry. -/
def Request.wf (r : Request) : Bool :=
  lengthFits r.a && lengthFits r.b

/-- A command that a frame can carry. -/
def Instr.wf (i : Instr) : Bool :=
  lengthFits i.opA && lengthFits i.opB

end Sys2Proof
end

