-- ==== Sys2Proof/Decode.lean ====
section
/-!
DEFINITION. From frame bytes to commands and back (30_encoding.md R60, R61, R62, R67, R68; 20_memory.md R43).
The length fields alone fix the end of a frame; the opcode byte alone selects the command.
The decoder is total: bytes are a command and the bytes after its frame, an incomplete frame, or a complete frame with a
reserved opcode. The encoder stands after it.
-/

namespace Sys2Proof

/-! ## The length fields -/

/-- The value of a 32-bit big-endian field, most significant byte first (R43, R60). -/
def be32 (b3 b2 b1 b0 : Byte) : Nat :=
  ((b3.toNat * 256 + b2.toNat) * 256 + b1.toNat) * 256 + b0.toNat

/-- The four bytes of a 32-bit big-endian field (R43, R60). -/
def be32Bytes (n : Nat) : ByteSeq :=
  [BitVec.ofNat 8 (n / 2 ^ 24), BitVec.ofNat 8 (n / 2 ^ 16), BitVec.ofNat 8 (n / 2 ^ 8), BitVec.ofNat 8 n]

/-! ## Frames -/

/-- One length field and the operand it announces, with the bytes after it; `none` while bytes are missing (R60). -/
def takeOperand : ByteSeq → Option (ByteSeq × ByteSeq)
  | b3 :: b2 :: b1 :: b0 :: rest =>
    if be32 b3 b2 b1 b0 ≤ rest.length then
      some (rest.take (be32 b3 b2 b1 b0), rest.drop (be32 b3 b2 b1 b0))
    else none
  | _ => none

/-- The request frame at the head of `bs` and the bytes after it; `none` while the frame is incomplete (R60). -/
def parseFrame : ByteSeq → Option (Request × ByteSeq)
  | [] => none
  | op :: rest =>
    match takeOperand rest with
    | none => none
    | some (a, rest') =>
      match takeOperand rest' with
      | none => none
      | some (b, rest'') => some (⟨op, a, b⟩, rest'')

/-! ## Opcodes -/

/-- The opcode of each command (R61). -/
def Instr.opcode : Instr → Byte
  | .csum _ _ => 0x01#8
  | .derive _ _ => 0x02#8
  | .xform _ _ => 0x03#8
  | .pack _ _ => 0x04#8
  | .unpack _ _ => 0x05#8

/-- The command of a request; `none` for the reserved opcodes 0x00 and 0x06 to 0xFF (R61, R62). Operands are taken whole
(R67). -/
def decodeRequest (r : Request) : Option Instr :=
  if r.op = 0x01#8 then some (.csum r.a r.b)
  else if r.op = 0x02#8 then some (.derive r.a r.b)
  else if r.op = 0x03#8 then some (.xform r.a r.b)
  else if r.op = 0x04#8 then some (.pack r.a r.b)
  else if r.op = 0x05#8 then some (.unpack r.a r.b)
  else none

/-- What bytes at the request port are. -/
inductive Decoded where
  /-- A command, and the bytes after its frame. -/
  | instr (i : Instr) (rest : ByteSeq)
  /-- A complete frame with a reserved opcode: the block answers it with IllegalCommand (R62). -/
  | illegalCommand (r : Request) (rest : ByteSeq)
  /-- The frame's end has not arrived (R60). -/
  | incompleteFrame
deriving DecidableEq, Repr

/-- The decoder, total on any bytes. -/
def decode (bs : ByteSeq) : Decoded :=
  match parseFrame bs with
  | none => .incompleteFrame
  | some (r, rest) =>
    match decodeRequest r with
    | some i => .instr i rest
    | none => .illegalCommand r rest

/-! ## The encoder -/

/-- The request frame of a request: OP, LENA, A, LENB, B (R60). For an operand of 2^32 bytes or more, which no length field can
announce, the field holds the length modulo 2^32: the MODEL's choice (log 26). -/
def requestFrame (r : Request) : ByteSeq :=
  r.op :: (be32Bytes r.a.length ++ r.a ++ be32Bytes r.b.length ++ r.b)

/-- The request a command stands for (R61). -/
def Instr.request (i : Instr) : Request :=
  ⟨i.opcode, i.opA, i.opB⟩

/-- The frame bytes of a command (R60, R61). -/
def encode (i : Instr) : ByteSeq :=
  requestFrame i.request

/-! ## A word of the opcode table -/

/-- `bs` with zero bytes after it, up to `n` bytes. -/
def padTo (n : Nat) (bs : ByteSeq) : ByteSeq :=
  bs ++ List.replicate (n - bs.length) 0#8

/-- The bytes of a table word: byte k holds bits 8k+7..8k of `w`. -/
def wordBytes : Nat → Nat → ByteSeq
  | 0, _ => []
  | k + 1, w => BitVec.ofNat 8 w :: wordBytes k (w / 256)

/-- The value of the big-endian field at byte `k` of `bs`, the bytes above `bs` being zero. -/
def fieldAt (bs : ByteSeq) (k : Nat) : Nat :=
  be32 (bs.getD k 0) (bs.getD (k + 1) 0) (bs.getD (k + 2) 0) (bs.getD (k + 3) 0)

/-- The frame of a table word of `nbits` bits, with zero bytes above them up to the end its length fields give. -/
def tableFrame (nbits w : Nat) : ByteSeq :=
  let bs := wordBytes (nbits / 8) w
  let lenA := fieldAt bs 1
  let lenB := fieldAt bs (5 + lenA)
  padTo (9 + lenA + lenB) bs

/-- The command the decoder reads from a table word. -/
def decodeTableWord (nbits w : Nat) : Option Instr :=
  match decode (tableFrame nbits w) with
  | .instr i _ => some i
  | .illegalCommand _ _ => none
  | .incompleteFrame => none

end Sys2Proof
end

