-- ==== Sys2Proof/Config.lean ====
section
/-!
DEFINITION. What is fixed when a block is built, and the values the spec leaves open.
The spec's fixed numbers (00_scope.md R6, R8, R9, R10), its three named parameters MAGIC, MAX_LEN and
HEX_ACCEPT_UPPER (R7, R11, R12), and the free values (10_state.md R29, R30, R33; 93_implementation_defined.md
'any value'), each an opaque constant with no body, so that no proof can know a value of it.
-/

namespace Sys2Proof

/-- `KEY_LEN = 13` (R6). -/
abbrev keyLen : Nat := 13

/-- `MIN_TOKEN_LEN = 20`, the bound of UNPACK's first stage (R8; 90_conflicts.md C1). -/
abbrev minTokenLen : Nat := 20

/-- The least value `MAX_LEN` may have (R11). -/
abbrev leastMaxLen : Nat := 21

/-- `MARKER = 0x40`, the ASCII code of the token's first character (R9). -/
abbrev marker : Byte := 0x40#8

/-- `SBOX_SIZE = 256` (R10). -/
abbrev sboxSize : Nat := 256

/-- The named parameters of one built block. They are arguments of the model: every state carries its own, and no
command writes them. -/
structure Params where
  /-- `MAGIC[0..12]`, the 13-byte ROM (R7, R23). -/
  magic : Vector Byte 13
  /-- `MAX_LEN - 21`, or `none` where `MAX_LEN` is unbounded: R11's constraint `MAX_LEN >= 21` holds by construction. -/
  headroom : Option Nat
  /-- `HEX_ACCEPT_UPPER` (R12): does UNPACK accept the digits `A`-`F`? -/
  hexAcceptUpper : Bool
deriving DecidableEq, Repr, Inhabited

/-- `MAX_LEN`, the greatest operand length in bytes; `none` is "unbounded" (R11). -/
def Params.maxLen (p : Params) : Option Nat :=
  p.headroom.map (leastMaxLen + ·)

/-- A length the block accepts: not above `MAX_LEN` (R11). -/
def Params.Within (p : Params) (n : Nat) : Prop :=
  ∀ m, p.maxLen = some m → n ≤ m

/-- The 13 bytes of MAGIC, which no source gives (R7; 92_eei_decisions.md D5): open. -/
opaque Config.magic : Vector Byte 13

/-- `MAX_LEN - 21`, or unbounded (R11; D6): open. -/
opaque Config.headroom : Option Nat

/-- The block the model resets to: MAGIC and MAX_LEN open, HEX_ACCEPT_UPPER at the default R12 gives it. -/
def Config.params : Params where
  magic := Config.magic
  headroom := Config.headroom
  hexAcceptUpper := true

/-! The free values: what each working register holds after a command completes, where the spec says "any value"
(10_state.md R29, R30; 93_implementation_defined.md). Each is read at the counter `State.draw`. -/

/-- ACC between commands. -/
opaque Config.freeAcc : Nat → Byte

/-- SUMB between commands. -/
opaque Config.freeSumb : Nat → Byte

/-- KEY between commands. -/
opaque Config.freeKey : Nat → Vector Byte 13

/-- S between commands. -/
opaque Config.freeSbox : Nat → Vector Byte 256

/-- I between commands. -/
opaque Config.freeI : Nat → Byte

/-- J between commands. -/
opaque Config.freeJ : Nat → Byte

/-- N between commands. -/
opaque Config.freeN : Nat → Nat

/-- The keystream bytes Z between commands. -/
opaque Config.freeZ : Nat → ByteSeq

/-- PAY between commands. -/
opaque Config.freePay : Nat → ByteSeq

/-- CT between commands. -/
opaque Config.freeCt : Nat → ByteSeq

/-- PT between commands. -/
opaque Config.freePt : Nat → ByteSeq

/-- OUT between commands. -/
opaque Config.freeOut : Nat → ByteSeq

/-- The LENR field of a response whose result does not fit 32 bits: the spec states no value there (R60). It is a function of
the result, so that the same request gives the same response (20_memory.md R45). -/
opaque Config.freeLenr : ByteSeq → BitVec 32

end Sys2Proof
end

