-- ==== Sys2Proof/Machine/Flags.lean ====
section
/-!
DEFINITION. The status codes. The block has no condition flags (10_state.md R32): RSP_STATUS is its only status state
(R31), and these are its values, fields and classes (30_encoding.md R64, 60_exceptions.md R150 to R152).
-/

namespace Sys2Proof.Machine

/-- The outcomes of a command, by the names of R64. -/
inductive Status where
  /-- The command completed and the result holds its value. -/
  | ok
  /-- FormatError: the token is shorter than MIN_TOKEN_LEN. -/
  | tooShort
  /-- FormatError: token byte 0 is not MARKER. -/
  | badPrefix
  /-- FormatError: after the marker stand no even number of hex digits. -/
  | badEncoding
  /-- FormatError: the plaintext's checksum is not the sum byte. -/
  | checksumMismatch
  /-- Block error: reserved opcode. -/
  | illegalCommand
  /-- Block error: the operands break the opcode's row of R61. -/
  | badOperand
  /-- Block error: an operand is longer than MAX_LEN. -/
  | overlength
deriving DecidableEq, Repr

/-- The code of each status (R64). -/
def Status.code : Status → Byte
  | .ok => 0x00#8
  | .tooShort => 0x01#8
  | .badPrefix => 0x02#8
  | .badEncoding => 0x03#8
  | .checksumMismatch => 0x04#8
  | .illegalCommand => 0x10#8
  | .badOperand => 0x11#8
  | .overlength => 0x12#8

/-- The field CLASS, bits 7:4 of RSP_STATUS (R31). -/
def statusClass (b : Byte) : BitVec 4 :=
  b.extractLsb' 4 4

/-- The field CODE, bits 3:0 of RSP_STATUS (R31). -/
def statusCode (b : Byte) : BitVec 4 :=
  b.extractLsb' 0 4

/-- The legal values of RSP_STATUS: exactly 0x00-0x04 and 0x10-0x12 (R31). -/
def statusLegal (b : Byte) : Bool :=
  decide (b ≤ 0x04#8) || (decide (0x10#8 ≤ b) && decide (b ≤ 0x12#8))

/-- The source's four errors, which only UNPACK raises (R151). -/
def Status.isFormatError : Status → Bool
  | .tooShort | .badPrefix | .badEncoding | .checksumMismatch => true
  | .ok | .illegalCommand | .badOperand | .overlength => false

/-- The spec's three errors for misuse (R152). -/
def Status.isBlockError : Status → Bool
  | .illegalCommand | .badOperand | .overlength => true
  | .ok | .tooShort | .badPrefix | .badEncoding | .checksumMismatch => false

end Sys2Proof.Machine
end

