-- ==== Sys2Proof/Machine/State.lean ====
section
/-!
DEFINITION. Everything the spec gives the block to hold (10_state.md), as plain data, and the block right after reset.
The working registers are one record, `Work`, because the spec treats them as one thing: no command reads one before
writing it, and between commands each may hold any value (R30, R33). The ports of R21 stand beside them.
-/

namespace Sys2Proof.Machine

/-- The control state `CTL` (R22). -/
inductive Ctl where
  /-- The block takes the next complete request. -/
  | idle
  /-- The block has a request, whole or in part. -/
  | busy
deriving DecidableEq, Repr

/-- The working registers of one command (R24 to R29). -/
structure Work where
  /-- `ACC[7:0]`, the checksum accumulator (R24). -/
  acc : Byte
  /-- `SUMB[7:0]`, the sum byte register (R25). -/
  sumb : Byte
  /-- `KEY[0..12]`, the key register file, the KEYF space (R26, R40). -/
  key : Vector Byte 13
  /-- `S[0..255]`, the permutation RAM, the SBOX space (R27, R40). -/
  sbox : Vector Byte 256
  /-- `I[7:0]`, an RC4 index (R28). -/
  i : Byte
  /-- `J[7:0]`, an RC4 index (R28). -/
  j : Byte
  /-- `N`, the byte counter (R28). Its width is open and unbounded with MAX_LEN. -/
  n : Nat
  /-- `Z[0..n-1]`, the keystream bytes PRGA produced (R101). DEDUCED: R101 names it, no state table does (log 12). -/
  z : ByteSeq
  /-- `PAY`, the decoded payload of a token (R29). -/
  pay : ByteSeq
  /-- `CT`, the ciphertext (R29). -/
  ct : ByteSeq
  /-- `PT`, the plaintext (R29). -/
  pt : ByteSeq
  /-- `OUT`, the result being assembled (R29). -/
  out : ByteSeq
  /-- The MODEL's own count of loop iterations, so that R176's bound can be stated (log 17). Nothing reads it. -/
  iters : Nat
deriving DecidableEq, Repr

/-- The state of one block. -/
structure State where
  /-- What the block was built with: the MAGIC ROM (R23, MROM of R40), MAX_LEN, HEX_ACCEPT_UPPER. Never written. -/
  par : Params
  /-- The reset input (R170). -/
  rst : Bool
  /-- `CTL` (R22). -/
  ctl : Ctl
  /-- `OP`, `A` and `B` as latched, while a complete request is being executed (R21, R22). -/
  latch : Option Request
  /-- The working registers (R24 to R29). -/
  work : Work
  /-- `RSP_STATUS[7:0]` (R31). -/
  rspStatus : Byte
  /-- `RSP_R`, the result on the response port (R21). -/
  rspR : ByteSeq
  /-- Has a response been given since reset? Before that the host must not read the response (R31, R173). -/
  rspValid : Bool
  /-- The request port: bytes the host has sent and the block has not taken, oldest first (R60, R174). -/
  reqIn : ByteSeq
  /-- The bytes of an incomplete frame the block has taken (R60). -/
  rx : ByteSeq
  /-- The response port: the response frames given and not yet taken by the host, oldest first (R60). -/
  rspOut : ByteSeq
  /-- The MODEL's own counter at which the next free values are read (log 5). -/
  draw : Nat
deriving DecidableEq, Repr

/-- Why a step has no next state. -/
inductive Fault where
  /-- Raised by the step of a BUSY block whose request frame is incomplete while no further byte has been sent: the block
  "stays BUSY, takes no step and gives no response" (R60, R174, R159). Safe: the block is stuck until the host sends the
  rest, and nothing is claimed of it meanwhile. -/
  | partialFrame
deriving DecidableEq, Repr

/-- Why an instruction has no meaning here. -/
inductive Refusal where
  /-- Raised by `exec` for an instruction that has no meaning yet; no arm does. Safe: nothing is claimed of it. -/
  | notModelled (mnemonic : String)
deriving DecidableEq, Repr

/-- What a step or a command answers. -/
abbrev Result := Host.Outcome State Fault Refusal

/-- The working registers right after reset. DESIGN CHOICE: the spec leaves every one unspecified (R33); zero or empty
here (log 4). No command reads one of them before writing it. -/
def Work.reset : Work where
  acc := 0#8
  sumb := 0#8
  key := Vector.replicate 13 0#8
  sbox := Vector.replicate 256 0#8
  i := 0#8
  j := 0#8
  n := 0
  z := []
  pay := []
  ct := []
  pt := []
  out := []
  iters := 0

/-- A block with the parameters `p` right after reset (R33, R170): CTL is IDLE and MAGIC is the parameter. The values of
RSP_STATUS and RSP_R are unspecified and must not be read yet; DESIGN CHOICE: zero and empty (log 4). -/
def State.resetWith (p : Params) : State where
  par := p
  rst := false
  ctl := .idle
  latch := none
  work := Work.reset
  rspStatus := 0#8
  rspR := []
  rspValid := false
  reqIn := []
  rx := []
  rspOut := []
  draw := 0

/-- The machine right after reset (R33, R170), for the open parameters of `Config`. -/
def State.reset : State :=
  State.resetWith Config.params

end Sys2Proof.Machine
end

