-- ==== Sys2Proof/Machine/Ops.lean ====
section
/-!
DEFINITION. The operations every command shares: the pseudocode's loops, the reads and writes of the internal spaces
(20_memory.md R40), and the completion of a command, with success or with an error (60_exceptions.md R150, R154). The
block has no traps (R155): an error completion is what it has in place of taking an exception, and it returns nowhere.
-/

namespace Sys2Proof.Machine

/-! ## Loops over the byte counter -/

/-- The end of one loop iteration: the byte counter N moves on (R28). -/
def Work.tick (w : Work) : Work :=
  { w with n := w.n + 1, iters := w.iters + 1 }

/-- `for N in ...: body`, where `xs` lists what the iterations visit, in order (R16). -/
def forEach {α : Type} (body : α → Work → Work) : List α → Work → Work
  | [], w => w
  | x :: xs, w => forEach body xs (body x w).tick

/-- `for N in ...: if not ok: raise`: the loop ends at the first element that is not `ok` (R16, R123). -/
def scanAll {α : Type} (ok : α → Bool) : List α → Work → Bool × Work
  | [], w => (true, w)
  | x :: xs, w => if ok x then scanAll ok xs w.tick else (false, w.tick)

/-- N before a loop that starts at `k`. -/
def Work.startAt (k : Nat) (w : Work) : Work :=
  { w with n := k }

/-! ## The internal spaces -/

/-- `S[x]`: a read of the SBOX space at an 8-bit index (R16, R40). -/
def Work.readS (w : Work) (x : Byte) : Byte :=
  w.sbox[x.toNat]'x.isLt

/-- `S[x] <- v` (R16, R40). -/
def Work.writeS (x v : Byte) (w : Work) : Work :=
  { w with sbox := w.sbox.set x.toNat v x.isLt }

/-- `t <- S[x]; S[x] <- S[y]; S[y] <- t` (R100, R101). -/
def Work.swapS (x y : Byte) (w : Work) : Work :=
  let t := w.readS x
  (w.writeS x (w.readS y)).writeS y t

/-- `KEY[k] <- v`: a write of the KEYF space (R40). -/
def Work.writeKey (k : Fin 13) (v : Byte) (w : Work) : Work :=
  { w with key := w.key.set k.val v k.isLt }

/-- `MAGIC[k]`: a read of the MROM space (R16, R40). -/
def magicAt (p : Params) (k : Fin 13) : Byte :=
  p.magic[k.val]'k.isLt

/-! ## Completing a command -/

/-- What a command's rule ends in: its status, its result, and the working registers it leaves. -/
structure Reply where
  /-- The status the command completes with. -/
  status : Status
  /-- The result R. -/
  result : ByteSeq
  /-- The working registers where the rule ends. -/
  work : Work
deriving DecidableEq, Repr

/-- `return r`: status OK and the result `r` (R16). -/
def reply (r : ByteSeq) (w : Work) : Reply :=
  ⟨.ok, r, w⟩

/-- `raise st()`: the named status and the empty result (R16, R64). -/
def raiseStatus (st : Status) (w : Work) : Reply :=
  ⟨st, [], w⟩

/-- The LENR field of a result, big-endian (R60). Where the length does not fit 32 bits the spec states no value: a free
value of that result, the same whenever the result is the same (R45; log 7). -/
def lengthField (r : ByteSeq) : ByteSeq :=
  if r.length < 2 ^ 32 then be32Bytes r.length else be32Bytes (Config.freeLenr r).toNat

/-- The response frame: STATUS, LENR, R (R60). -/
def responseFrame (st : Status) (r : ByteSeq) : ByteSeq :=
  st.code :: (lengthField r ++ r)

/-- A buffer holds at most MAX_LEN bytes (R29). -/
def capBuffer (p : Params) (x : ByteSeq) : ByteSeq :=
  match p.maxLen with
  | none => x
  | some m => x.take m

/-- The working registers between commands: each holds a free value, the buffers within MAX_LEN (R29, R30;
93_implementation_defined.md "any value"; log 5). -/
def Work.unspecified (p : Params) (k : Nat) : Work where
  acc := Config.freeAcc k
  sumb := Config.freeSumb k
  key := Config.freeKey k
  sbox := Config.freeSbox k
  i := Config.freeI k
  j := Config.freeJ k
  n := Config.freeN k
  z := Config.freeZ k
  pay := capBuffer p (Config.freePay k)
  ct := capBuffer p (Config.freeCt k)
  pt := capBuffer p (Config.freePt k)
  out := capBuffer p (Config.freeOut k)
  iters := 0

/-- The completion of a command, successful or not: RSP_STATUS and RSP_R are written, the response frame is given, CTL
returns to IDLE, and the working state is discarded (R22, R30, R31, R154). -/
def State.complete (st : Status) (r : ByteSeq) (s : State) : State :=
  { s with
    ctl := .idle
    latch := none
    work := Work.unspecified s.par s.draw
    rspStatus := st.code
    rspR := r
    rspValid := true
    rspOut := s.rspOut ++ responseFrame st r
    draw := s.draw + 1 }

/-- The response to a command: its rule's reply, completed. -/
def State.respond (rep : Reply) (s : State) : Result :=
  .next (s.complete rep.status rep.result)

/-- A request with a reserved opcode completes with IllegalCommand; its operands are not examined (R62, R152). -/
def execIllegal (s : State) : Result :=
  s.respond (raiseStatus .illegalCommand s.work)

end Sys2Proof.Machine
end

