-- ==== Sys2Proof/Machine/Operands.lean ====
section
/-!
DEFINITION. The operand checks and operand forms of 30_encoding.md: MAX_LEN (R11, R64), the row of each opcode (R61, R63),
and the sequences the commands take from A and B (R67).
-/

namespace Sys2Proof.Machine

/-- A length above MAX_LEN (R64). No length up to 21 is, since MAX_LEN >= 21 (R11): that case is answered first, so that
it does not depend on the parameter. -/
def overLength (p : Params) (n : Nat) : Bool :=
  decide (leastMaxLen < n) &&
    match p.headroom with
    | none => false
    | some h => decide (leastMaxLen + h < n)

/-- `len(A) > MAX_LEN or len(B) > MAX_LEN` (R80, R90, R103, R122, R123). -/
def tooLong (p : Params) (a b : ByteSeq) : Bool :=
  overLength p a.length || overLength p b.length

/-- CSUM's row: B must be empty (R61, R80). -/
def csumShape (_a b : ByteSeq) : Bool :=
  decide (b.length = 0)

/-- DERIVE's row: A is exactly one byte, B empty (R61, R90). -/
def deriveShape (a b : ByteSeq) : Bool :=
  decide (a.length = 1) && decide (b.length = 0)

/-- XFORM's row: A is exactly 13 bytes (R61, R103). -/
def xformShape (a _b : ByteSeq) : Bool :=
  decide (a.length = keyLen)

/-- PACK's row: A is not empty, B empty (R61, R122; 92_eei_decisions.md D7). -/
def packShape (a b : ByteSeq) : Bool :=
  !decide (a.length = 0) && decide (b.length = 0)

/-- UNPACK's row: B must be empty (R61, R123). -/
def unpackShape (_a b : ByteSeq) : Bool :=
  decide (b.length = 0)

/-- The indices of KEY and MAGIC, 0 to 12 (R6). -/
def keyIndices : List (Fin 13) :=
  [0, 1, 2, 3, 4, 5, 6, 7, 8, 9, 10, 11, 12]

/-- `for N in 0 .. 12: KEY[N] <- A[N]`: XFORM's key is its operand A (R67, R103). -/
def Work.loadKey (a : ByteSeq) (w : Work) : Work :=
  forEach (fun k w => w.writeKey k (a.getD k.val 0#8)) keyIndices (w.startAt 0)

end Sys2Proof.Machine
end

