-- ==== Sys2Proof/Machine/Checksum.lean ====
section
/-!
DEFINITION. The checksum accumulator and CSUM (40_checksum.md R80, R81).
-/

namespace Sys2Proof.Machine

/-- `Checksum(X)`: ACC is set to 0, then each byte is added modulo 256 (R81). -/
def Work.checksum (x : ByteSeq) (w : Work) : Work :=
  forEach (fun b w => { w with acc := w.acc + b }) x { w with acc := 0#8, n := 0 }

/-- CSUM's rule (R80). -/
def csumReply (p : Params) (a b : ByteSeq) (w : Work) : Reply :=
  if tooLong p a b then raiseStatus .overlength w
  else if !csumShape a b then raiseStatus .badOperand w
  else
    let w1 := w.checksum a
    reply [w1.acc] w1

/-- CSUM: compute the 8-bit checksum of a byte sequence (R80). -/
def execCsum (a b : ByteSeq) (s : State) : Result :=
  s.respond (csumReply s.par a b s.work)

end Sys2Proof.Machine
end

