-- ==== Sys2Proof/Machine/Cipher.lean ====
section
/-!
DEFINITION. The stream-cipher XOR datapath and XFORM (42_stream_cipher.md R100 to R103).
-/

namespace Sys2Proof.Machine

/-- `for N in 0 .. 255: S[N] <- N` (R100). -/
def Work.initS (w : Work) : Work :=
  forEach (fun k w => w.writeS (BitVec.ofNat 8 k) (BitVec.ofNat 8 k)) (List.range sboxSize) (w.startAt 0)

/-- One step of the key schedule at N = k: `J <- J + S[N] + K[N mod L]`, then the swap of S[N] and S[J] (R100). -/
def Work.ksaStep (key : ByteSeq) (k : Nat) (w : Work) : Work :=
  let x := BitVec.ofNat 8 k
  let j := w.j + w.readS x + key.getD (k % key.length) 0#8
  { w with j := j }.swapS x j

/-- `KSA(K)`: the key-scheduling pass, for a key of any length L >= 1 (R100). -/
def Work.ksa (key : ByteSeq) (w : Work) : Work :=
  forEach (Work.ksaStep key) (List.range sboxSize) ({ w.initS with j := 0#8 }.startAt 0)

/-- One step of the byte generation: I and J move on, S[I] and S[J] swap, and the byte is read after the swap (R101). -/
def Work.prgaStep (w : Work) : Work :=
  let i := w.i + 1#8
  let j := w.j + w.readS i
  let w1 := { w with i := i, j := j }.swapS i j
  { w1 with z := w1.z ++ [w1.readS (w1.readS i + w1.readS j)] }

/-- `PRGA(n)`: n keystream bytes from the S that KSA left; J starts at 0 again, and no byte is discarded (R101). -/
def Work.prga (n : Nat) (w : Work) : Work :=
  forEach (fun _ w => w.prgaStep) (List.range n) { w with i := 0#8, j := 0#8, z := [], n := 0 }

/-- `for N in 0 .. len(D)-1: OUT[N] <- D[N] xor Z[N]` (R102). -/
def Work.xorOut (d : ByteSeq) (w : Work) : Work :=
  forEach (fun dz w => { w with out := w.out ++ [dz.1 ^^^ dz.2] }) (d.zip w.z) { w with out := [], n := 0 }

/-- `Transform(KEY[0..12], D)`, whose value is left in OUT (R102). -/
def Work.transform (d : ByteSeq) (w : Work) : Work :=
  ((w.ksa w.key.toList).prga d.length).xorOut d

/-- XFORM's rule (R103). -/
def xformReply (p : Params) (a b : ByteSeq) (w : Work) : Reply :=
  if tooLong p a b then raiseStatus .overlength w
  else if !xformShape a b then raiseStatus .badOperand w
  else
    let w1 := (w.loadKey a).transform b
    reply w1.out w1

/-- XFORM: apply the RC4 XOR transform under an explicit key (R103). -/
def execXform (a b : ByteSeq) (s : State) : Result :=
  s.respond (xformReply s.par a b s.work)

end Sys2Proof.Machine
end

