-- ==== Sys2Proof/Machine/Derive.lean ====
section
/-!
DEFINITION. The key derivation engine and DERIVE (41_key_derivation.md R90, R91).
-/

namespace Sys2Proof.Machine

/-- `DeriveKey(c)`: KEY[0] is c and KEY[N] is MAGIC[N] for N = 1 to 12; MAGIC[0] is not read (R91).
The loop counts N, as the pseudocode of R91 and the table of R33 have it, although R28 does not name 41_key_derivation.md
among the files whose rules write N: the MODEL's choice (log 25). -/
def Work.deriveKey (p : Params) (c : Byte) (w : Work) : Work :=
  forEach (fun k w => w.writeKey k (magicAt p k)) (keyIndices.drop 1) ((w.writeKey 0 c).startAt 1)

/-- DERIVE's rule (R90). -/
def deriveReply (p : Params) (a b : ByteSeq) (w : Work) : Reply :=
  if tooLong p a b then raiseStatus .overlength w
  else if !deriveShape a b then raiseStatus .badOperand w
  else
    let w1 := w.deriveKey p (a.getD 0 0#8)
    reply w1.key.toList w1

/-- DERIVE: derive the 13-byte RC4 key for a checksum byte (R90). -/
def execDerive (a b : ByteSeq) (s : State) : Result :=
  s.respond (deriveReply s.par a b s.work)

end Sys2Proof.Machine
end

