-- ==== Sys2Proof/Machine/Codec.lean ====
section
/-!
DEFINITION. The codec with its format and integrity validator: hex conversion (43_codec.md R120, R121; 30_encoding.md
R66), PACK (R122) and UNPACK (R123, R124).
-/

namespace Sys2Proof.Machine

/-! ## Hex conversion -/

/-- The high nibble `b[7:4]`, which comes first in a token (R42). -/
def highNibble (b : Byte) : BitVec 4 :=
  b.extractLsb' 4 4

/-- The low nibble `b[3:0]` (R42). -/
def lowNibble (b : Byte) : BitVec 4 :=
  b.extractLsb' 0 4

/-- `HexChar(v)`: '0'..'9' or lower-case 'a'..'f' (R66, R120). -/
def hexChar (v : BitVec 4) : Byte :=
  if v < 10#4 then 0x30#8 + v.zeroExtend 8 else 0x61#8 + v.zeroExtend 8 - 10#8

/-- `HexEncode(P)`, whose value is left in OUT (R120). -/
def Work.hexEncode (x : ByteSeq) (w : Work) : Work :=
  forEach (fun b w => { w with out := w.out ++ [hexChar (highNibble b), hexChar (lowNibble b)] }) x
    { w with out := [], n := 0 }

/-- `0x30 <= c <= 0x39` (R121). -/
def isDecimalDigit (c : Byte) : Bool :=
  decide (0x30#8 ≤ c) && decide (c ≤ 0x39#8)

/-- `0x61 <= c <= 0x66` (R121). -/
def isLowerDigit (c : Byte) : Bool :=
  decide (0x61#8 ≤ c) && decide (c ≤ 0x66#8)

/-- `0x41 <= c <= 0x46` (R121). -/
def isUpperDigit (c : Byte) : Bool :=
  decide (0x41#8 ≤ c) && decide (c ≤ 0x46#8)

/-- `IsHexDigit(c)` (R66, R121). -/
def isHexDigit (p : Params) (c : Byte) : Bool :=
  isDecimalDigit c || isLowerDigit c || (p.hexAcceptUpper && isUpperDigit c)

/-- `HexVal(c)` of a hex digit (R121); UNPACK asks it of hex digits only. -/
def hexVal (c : Byte) : Byte :=
  if isDecimalDigit c then c - 0x30#8
  else if isLowerDigit c then c - 0x61#8 + 10#8
  else c - 0x41#8 + 10#8

/-- The digits of `H` two by two: `H[2k]` and `H[2k+1]` (R121). -/
def digitPairs : ByteSeq → List (Byte × Byte)
  | hi :: lo :: rest => (hi, lo) :: digitPairs rest
  | [_] => []
  | [] => []

/-- `PAY <- HexDecode(H)`: `P[k] = 16 * HexVal(H[2k]) + HexVal(H[2k+1])` (R121). -/
def Work.hexDecode (h : ByteSeq) (w : Work) : Work :=
  forEach (fun d w => { w with pay := w.pay ++ [16#8 * hexVal d.1 + hexVal d.2] }) (digitPairs h)
    { w with pay := [], n := 0 }

/-! ## PACK -/

/-- PACK's rule (R122). -/
def packReply (p : Params) (a b : ByteSeq) (w : Work) : Reply :=
  if tooLong p a b then raiseStatus .overlength w
  else if !packShape a b then raiseStatus .badOperand w
  else
    let w1 := w.checksum a
    let w2 := { w1 with sumb := w1.acc }
    let w3 := (w2.deriveKey p w2.sumb).transform a
    let w4 := { w3 with ct := w3.out }
    let w5 := w4.hexEncode ([w4.sumb] ++ w4.ct)
    reply ([marker] ++ w5.out) w5

/-- PACK: encode an address as a token (R122). -/
def execPack (a b : ByteSeq) (s : State) : Result :=
  s.respond (packReply s.par a b s.work)

/-! ## UNPACK -/

/-- Stage 5, ChecksumVerify: the plaintext in PT is the result if its checksum is the sum byte (R123). -/
def verifyStage (w : Work) : Reply :=
  let w1 := w.checksum w.pt
  if w1.acc ≠ w1.sumb then raiseStatus .checksumMismatch w1 else reply w1.pt w1

/-- Stage 4, Decrypt: the payload's first byte is the sum byte, the rest the ciphertext; it cannot fail (R123, R124). -/
def decryptStage (p : Params) (w : Work) : Reply :=
  let w1 := { w with sumb := w.pay.getD 0 0#8, ct := w.pay.drop 1 }
  let w2 := (w1.deriveKey p w1.sumb).transform w1.ct
  verifyStage { w2 with pt := w2.out }

/-- Stage 3, HexSyntax: the bytes after the marker are an even number of hex digits, and are decoded (R123). -/
def hexSyntaxStage (p : Params) (h : ByteSeq) (w : Work) : Reply :=
  if h.length % 2 ≠ 0 then raiseStatus .badEncoding w
  else
    let (digits, w1) := scanAll (isHexDigit p) h (w.startAt 0)
    if digits then decryptStage p (w1.hexDecode h) else raiseStatus .badEncoding w1

/-- Stage 2, Prefix: the token begins with the marker (R123). -/
def prefixStage (p : Params) (t : ByteSeq) (w : Work) : Reply :=
  if t.getD 0 0#8 ≠ marker then raiseStatus .badPrefix w else hexSyntaxStage p (t.drop 1) w

/-- Stage 1, Length, and with it the whole pipeline: each stage passes on or ends the command (R123, R124). -/
def unpackStages (p : Params) (t : ByteSeq) (w : Work) : Reply :=
  if t.length < minTokenLen then raiseStatus .tooShort w else prefixStage p t w

/-- UNPACK's rule (R123). -/
def unpackReply (p : Params) (a b : ByteSeq) (w : Work) : Reply :=
  if tooLong p a b then raiseStatus .overlength w
  else if !unpackShape a b then raiseStatus .badOperand w
  else unpackStages p a w

/-- UNPACK: validate a token and decode it to an address (R123). -/
def execUnpack (a b : ByteSeq) (s : State) : Result :=
  s.respond (unpackReply s.par a b s.work)

end Sys2Proof.Machine
end

