-- ==== Sys2Proof/Machine/Dispatch.lean ====
section
/-!
DEFINITION. One arm per command: each calls the command's own meaning (30_encoding.md R61).
-/

namespace Sys2Proof.Machine

def exec (i : Instr) (s : State) : Host.Outcome State Fault Refusal :=
  match i with
  | .csum a b => Sys2Proof.Machine.execCsum a b s
  | .derive a b => Sys2Proof.Machine.execDerive a b s
  | .xform a b => Sys2Proof.Machine.execXform a b s
  | .pack a b => Sys2Proof.Machine.execPack a b s
  | .unpack a b => Sys2Proof.Machine.execUnpack a b s

end Sys2Proof.Machine
end

