-- ==== Sys2Proof/Machine/Ports.lean ====
section
/-!
DEFINITION. The request and response ports, the reset input, and what the host does at them (10_state.md R21, R22;
30_encoding.md R60; 70_reset_and_hazards.md R170, R173, R174).
-/

namespace Sys2Proof.Machine

/-! ## The block's side -/

/-- The block takes the bytes `bs` of its request port. A complete frame is latched, and the bytes after it stay on the
port as the start of the next frame; of an incomplete frame the block keeps the bytes and is BUSY (R22, R60, R174; log 9). -/
def State.take (bs : ByteSeq) (s : State) : State :=
  match parseFrame bs with
  | some (r, rest) => { s with ctl := .busy, latch := some r, rx := [], reqIn := rest }
  | none => { s with ctl := .busy, latch := none, rx := bs, reqIn := [] }

/-- An IDLE block: with no request it stays as it is; otherwise it takes the request (R22; log 10). -/
def State.idleStep (s : State) : Result :=
  if s.reqIn = [] then .next s else .next (s.take s.reqIn)

/-- A BUSY block whose frame is incomplete: it takes the bytes that have come, and without any it takes no step (R60,
R174). -/
def State.receiveStep (s : State) : Result :=
  if s.reqIn = [] then .fault .partialFrame else .next (s.take (s.rx ++ s.reqIn))

/-- A block as the asserted reset input leaves it: a BUSY command is abandoned with no response, no request is accepted,
MAGIC is untouched, and every other state takes its reset value (R33, R170). What is outside the block stays: the bytes the
host has not got rid of and the responses it has been given (log 13). -/
def State.underReset (s : State) : State :=
  { State.resetWith s.par with rst := true, reqIn := s.reqIn, rspOut := s.rspOut, draw := s.draw }

/-! ## The host's side -/

/-- The host sends bytes to the request port (R21, R60). -/
def State.hostSend (bs : ByteSeq) (s : State) : State :=
  { s with reqIn := s.reqIn ++ bs }

/-- The host takes what the response port has given (R21). -/
def State.hostTake (s : State) : ByteSeq × State :=
  (s.rspOut, { s with rspOut := [] })

/-- The host drives the reset input. At its assertion a BUSY command is abandoned, before any further step, so that its
response is never given; at its deassertion CTL is IDLE (R170). -/
def State.setReset (level : Bool) (s : State) : State :=
  if level then s.underReset
  else if s.rst then { s.underReset with rst := false }
  else s

/-- The host reads RSP_STATUS: nothing before the first response after reset (R31, R173). -/
def State.hostReadStatus (s : State) : Option Byte :=
  if s.rspValid then some s.rspStatus else none

/-- The host reads RSP_R: nothing before the first response after reset (R33, R173). -/
def State.hostReadResult (s : State) : Option ByteSeq :=
  if s.rspValid then some s.rspR else none

end Sys2Proof.Machine
end

