-- ==== Sys2Proof/Machine/Step.lean ====
section
/-!
DEFINITION. One step of the block (10_state.md R22): an IDLE block takes a request, a BUSY block executes the request it
has latched and returns to IDLE. A command is one step (70_reset_and_hazards.md R176), and so is taking its frame (log 8).
-/

namespace Sys2Proof.Machine

/-- A BUSY block with a complete request: the command of the latch is executed, or its reserved opcode is answered (R22,
R62). -/
def executeLatched (r : Request) (s : State) : Result :=
  match decodeRequest r with
  | some i => exec i s
  | none => execIllegal s

/-- One step of the block. -/
def step (s : State) : Host.Outcome State Fault Refusal :=
  if s.rst then .next s.underReset
  else
    match s.ctl with
    | .idle => s.idleStep
    | .busy =>
      match s.latch with
      | some r => executeLatched r s
      | none => s.receiveStep

/-- `s` with the command of a table word latched and about to be executed: the very next step runs it. The bytes are those
`decodeTableWord` decodes, and their frame is complete. What waits on the request port stays there (log 15). -/
def State.withFetchWord (s : State) (nbits w : Nat) : State :=
  { (s.setReset false).take (tableFrame nbits w) with reqIn := s.reqIn }

end Sys2Proof.Machine
end

