-- ==== Sys2Proof/Machine/HostStream.lean ====
section
/-!
DEFINITION. A host's sequence of commands (20_memory.md R50): the lines of 30_encoding.md R69 and the pseudo-commands of
R70, as abstract syntax, their assembly into requests, and the host that sends one request at a time and reads its
response (70_reset_and_hazards.md R174). Machine/Assembler.lean reads the text of a line.
-/

namespace Sys2Proof.Machine

/-- A `<seq>` operand of a line: bytes, or `$R`, the result of the previous command (R69). -/
inductive SeqArg where
  /-- A string or hex literal. -/
  | bytes (x : ByteSeq)
  /-- `$R`. -/
  | result
deriving DecidableEq, Repr

/-- A `<byte>` operand of a line: `0xHH`, or `$R[k]` (R69). -/
inductive ByteArg where
  /-- `0xHH`. -/
  | byte (b : Byte)
  /-- `$R[k]`. -/
  | resultAt (k : Nat)
deriving DecidableEq, Repr

/-- A line that is one command (R69). -/
inductive Line where
  /-- `CSUM <seq>`. -/
  | csum (x : SeqArg)
  /-- `DERIVE <byte>`. -/
  | derive (c : ByteArg)
  /-- `XFORM <seq13>, <seq>`. -/
  | xform (k d : SeqArg)
  /-- `PACK <seq>`. -/
  | pack (x : SeqArg)
  /-- `UNPACK <seq>`. -/
  | unpack (x : SeqArg)
deriving DecidableEq, Repr

/-- A line of the source, with the pseudo-commands (R70). -/
inductive SourceLine where
  /-- A line that is one command. -/
  | command (l : Line)
  /-- `ENCRYPT k, d`. -/
  | encrypt (k d : SeqArg)
  /-- `DECRYPT k, d`. -/
  | decrypt (k d : SeqArg)
  /-- `KEYOF a`. -/
  | keyof (a : SeqArg)
  /-- `ROUNDTRIP a`. -/
  | roundtrip (a : SeqArg)
deriving DecidableEq, Repr

/-- The expansion of a line (R70). -/
def SourceLine.expand : SourceLine → List Line
  | .command l => [l]
  | .encrypt k d => [.xform k d]
  | .decrypt k d => [.xform k d]
  | .keyof a => [.csum a, .derive (.resultAt 0)]
  | .roundtrip a => [.pack a, .unpack .result]

/-- The bytes of a `<seq>`, given the previous result. -/
def SeqArg.value (r : ByteSeq) : SeqArg → ByteSeq
  | .bytes x => x
  | .result => r

/-- The byte of a `<byte>`, given the previous result; `none` where `$R` has no byte `k`. -/
def ByteArg.value (r : ByteSeq) : ByteArg → Option Byte
  | .byte b => some b
  | .resultAt k => r[k]?

/-- The command a line assembles to, given the previous result; operands absent in the line are empty (R69).
An operand of 2^32 bytes or more, for which R60 has no frame, assembles like any other: the MODEL's choice (log 26). -/
def Line.assemble (r : ByteSeq) : Line → Option Instr
  | .csum x => some (.csum (x.value r) [])
  | .derive c => (c.value r).map fun b => .derive [b] []
  | .xform k d => some (.xform (k.value r) (d.value r))
  | .pack x => some (.pack (x.value r) [])
  | .unpack x => some (.unpack (x.value r) [])

/-- One whole request as the host runs it: the frame is sent, the block takes it, the block executes it (R21, R174).
For a request that no frame can carry (`Request.wf` false) the bytes sent are the MODEL's choice (log 26). -/
def hostRequest (r : Request) (s : State) : Result :=
  match step (s.hostSend (requestFrame r)) with
  | .next s1 => step s1
  | .fault f => .fault f
  | .refused f => .refused f

/-- The host sends a frame in parts, and the block takes each part as it comes (R60). -/
def sendParts : List ByteSeq → State → Result
  | [], s => .next s
  | part :: parts, s =>
    match step (s.hostSend part) with
    | .next s1 => sendParts parts s1
    | .fault f => .fault f
    | .refused f => .refused f

/-- One command as the host runs it. -/
def hostCommand (i : Instr) (s : State) : Result :=
  hostRequest i.request s

/-- The host runs requests one after another (R47, R174). -/
def runRequests : List Request → State → Result
  | [], s => .next s
  | r :: rs, s =>
    match hostRequest r s with
    | .next s1 => runRequests rs s1
    | .fault f => .fault f
    | .refused f => .refused f

/-- The host runs lines one after another, `r` being the result of the command before them. It answers the responses, each
a status and a result, in order, and the last state; `none` where a line does not assemble or a step has no next state. -/
def runLines : List Line → ByteSeq → State → Option (List (Byte × ByteSeq) × State)
  | [], _, s => some ([], s)
  | l :: ls, r, s =>
    match l.assemble r with
    | none => none
    | some i =>
      match hostCommand i s with
      | .fault _ => none
      | .refused _ => none
      | .next s1 =>
        match runLines ls s1.rspR s1 with
        | none => none
        | some (rs, s2) => some ((s1.rspStatus, s1.rspR) :: rs, s2)

end Sys2Proof.Machine
end

