-- ==== Sys2Proof/Machine/Assembler.lean ====
section
/-!
DEFINITION. The text of a command-stream line (30_encoding.md R69, R70) as characters, read into the abstract syntax of
Machine/HostStream.lean. Spacing and what the rule leaves unsaid: log 20.
-/

namespace Sys2Proof.Machine

/-- Space or tab. -/
def isBlank (c : Char) : Bool :=
  c == ' ' || c == '\t'

/-- The value of a hex digit character, either case. -/
def charHexValue (c : Char) : Option Nat :=
  if '0'.toNat ≤ c.toNat ∧ c.toNat ≤ '9'.toNat then some (c.toNat - '0'.toNat)
  else if 'a'.toNat ≤ c.toNat ∧ c.toNat ≤ 'f'.toNat then some (c.toNat - 'a'.toNat + 10)
  else if 'A'.toNat ≤ c.toNat ∧ c.toNat ≤ 'F'.toNat then some (c.toNat - 'A'.toNat + 10)
  else none

/-- The value of a decimal digit character. -/
def charDecValue (c : Char) : Option Nat :=
  if '0'.toNat ≤ c.toNat ∧ c.toNat ≤ '9'.toNat then some (c.toNat - '0'.toNat) else none

/-- The rest of a string literal after its opening quote: the ASCII codes up to the closing quote, and what follows. -/
def readString : List Char → Option (ByteSeq × List Char)
  | [] => none
  | c :: cs =>
    if c = '"' then some ([], cs)
    else if c.toNat < 128 then
      match readString cs with
      | none => none
      | some (x, rest) => some (BitVec.ofNat 8 c.toNat :: x, rest)
    else none

/-- The rest of a hex literal after its opening quote: two digits a byte, up to the closing quote, and what follows. -/
def readHex : List Char → Option (ByteSeq × List Char)
  | [] => none
  | [c] => if c = '"' then some ([], []) else none
  | h :: l :: cs =>
    if h = '"' then some ([], l :: cs)
    else
      match charHexValue h, charHexValue l, readHex cs with
      | some vh, some vl, some (x, rest) => some (BitVec.ofNat 8 (16 * vh + vl) :: x, rest)
      | _, _, _ => none

/-- A decimal number with the value `acc` read so far, up to the closing bracket, and what follows. -/
def readIndex (acc : Nat) : List Char → Option (Nat × List Char)
  | [] => none
  | c :: cs =>
    if c = ']' then some (acc, cs)
    else
      match charDecValue c with
      | none => none
      | some v => readIndex (10 * acc + v) cs

/-- An operand as the text gives it. -/
inductive TextArg where
  /-- `"..."` or `x"hh.."`. -/
  | bytes (x : ByteSeq)
  /-- `0xHH`. -/
  | byte (b : Byte)
  /-- `$R`. -/
  | result
  /-- `$R[k]`. -/
  | resultAt (k : Nat)
deriving DecidableEq, Repr

/-- One operand at the head of the text, and what follows (R69). -/
def readArg : List Char → Option (TextArg × List Char)
  | '"' :: cs =>
    match readString cs with
    | none => none
    | some (x, rest) => some (.bytes x, rest)
  | 'x' :: '"' :: cs =>
    match readHex cs with
    | none => none
    | some (x, rest) => some (.bytes x, rest)
  | '0' :: 'x' :: h :: l :: cs =>
    match charHexValue h, charHexValue l with
    | some vh, some vl => some (.byte (BitVec.ofNat 8 (16 * vh + vl)), cs)
    | _, _ => none
  | '$' :: 'R' :: '[' :: c :: cs =>
    match charDecValue c with
    | none => none
    | some v =>
      match readIndex v cs with
      | none => none
      | some (k, rest) => some (.resultAt k, rest)
  | '$' :: 'R' :: cs => some (.result, cs)
  | _ => none

/-- The end of a line's text: nothing, or a comment. -/
def atEnd : List Char → Bool
  | [] => true
  | c :: _ => c == ';'

/-- The operands of a line, separated by commas, with at most `fuel` of them. -/
def readArgs : Nat → List Char → Option (List TextArg)
  | 0, _ => none
  | fuel + 1, cs =>
    match readArg (cs.dropWhile isBlank) with
    | none => none
    | some (x, rest) =>
      match rest.dropWhile isBlank with
      | ',' :: rest' =>
        match readArgs fuel rest' with
        | none => none
        | some xs => some (x :: xs)
      | rest' => if atEnd rest' then some [x] else none

/-- A `<seq>`: a literal or `$R`. -/
def TextArg.seq? : TextArg → Option SeqArg
  | .bytes x => some (.bytes x)
  | .result => some .result
  | .byte _ => none
  | .resultAt _ => none

/-- A `<byte>`: `0xHH` or `$R[k]`. -/
def TextArg.byte? : TextArg → Option ByteArg
  | .byte b => some (.byte b)
  | .resultAt k => some (.resultAt k)
  | .bytes _ => none
  | .result => none

/-- The line with one `<seq>` operand that `f` makes. -/
def oneSeq (f : SeqArg → SourceLine) : List TextArg → Option SourceLine
  | [x] => x.seq?.map f
  | _ => none

/-- The line with two `<seq>` operands that `f` makes. -/
def twoSeqs (f : SeqArg → SeqArg → SourceLine) : List TextArg → Option SourceLine
  | [x, y] =>
    match x.seq?, y.seq? with
    | some k, some d => some (f k d)
    | _, _ => none
  | _ => none

/-- The line of a mnemonic and its operands (R69, R70). -/
def sourceLine (mnemonic : List Char) (xs : List TextArg) : Option SourceLine :=
  if mnemonic = ['C', 'S', 'U', 'M'] then oneSeq (fun x => .command (.csum x)) xs
  else if mnemonic = ['D', 'E', 'R', 'I', 'V', 'E'] then
    match xs with
    | [x] => x.byte?.map fun c => .command (.derive c)
    | _ => none
  else if mnemonic = ['X', 'F', 'O', 'R', 'M'] then twoSeqs (fun k d => .command (.xform k d)) xs
  else if mnemonic = ['P', 'A', 'C', 'K'] then oneSeq (fun x => .command (.pack x)) xs
  else if mnemonic = ['U', 'N', 'P', 'A', 'C', 'K'] then oneSeq (fun x => .command (.unpack x)) xs
  else if mnemonic = ['E', 'N', 'C', 'R', 'Y', 'P', 'T'] then twoSeqs .encrypt xs
  else if mnemonic = ['D', 'E', 'C', 'R', 'Y', 'P', 'T'] then twoSeqs .decrypt xs
  else if mnemonic = ['K', 'E', 'Y', 'O', 'F'] then oneSeq .keyof xs
  else if mnemonic = ['R', 'O', 'U', 'N', 'D', 'T', 'R', 'I', 'P'] then oneSeq .roundtrip xs
  else none

/-- One line of text: no command where it is blank or a comment, else the commands it expands to; `none` where it is not
in the syntax. -/
def readLine (text : List Char) : Option (List Line) :=
  let cs := text.dropWhile isBlank
  if atEnd cs then some []
  else
    match readArgs (text.length + 1) (cs.dropWhile fun c => !isBlank c) with
    | none => none
    | some xs =>
      match sourceLine (cs.takeWhile fun c => !isBlank c) xs with
      | none => none
      | some l => some l.expand

/-- The lines of a program's text, in order. -/
def readProgram : List (List Char) → Option (List Line)
  | [] => some []
  | t :: ts =>
    match readLine t, readProgram ts with
    | some ls, some rest => some (ls ++ rest)
    | _, _ => none

end Sys2Proof.Machine
end

