-- ==== Sys2Proof/Machine/Reference.lean ====
section
/-!
DEFINITION. The values the claims are stated with: closed forms of what each command answers, written without registers,
loops over N or buffers. The step calls none of them; that the registers compute these values is a claim.
Rules: R81, R82 (checksum), R91 (key), R100 to R102 (RC4), R65, R66, R120, R121 (hex), R122, R123 (the codec).
-/

namespace Sys2Proof.Reference

open Sys2Proof.Machine

/-- The full integer sum reduced modulo 256 once (R82). -/
def checksum (x : ByteSeq) : Byte :=
  BitVec.ofNat 8 (x.map BitVec.toNat).sum

/-- `[c] ++ MAGIC[1..12]` (R91). -/
def key (p : Params) (c : Byte) : ByteSeq :=
  c :: p.magic.toList.drop 1

/-- A permutation with the values at `x` and `y` exchanged. -/
def swap (s : Byte → Byte) (x y : Byte) : Byte → Byte :=
  fun z => if z = x then s y else if z = y then s x else s z

/-- S and J after `n` steps of the standard RC4 key schedule (R100). -/
def schedule (k : ByteSeq) : Nat → (Byte → Byte) × Byte
  | 0 => (id, 0#8)
  | n + 1 =>
    let before := schedule k n
    let x := BitVec.ofNat 8 n
    let j := before.2 + before.1 x + k.getD (n % k.length) 0#8
    (swap before.1 x j, j)

/-- The next `n` bytes of the standard RC4 generator from S, I and J (R101). -/
def stream : Nat → (Byte → Byte) → Byte → Byte → ByteSeq
  | 0, _, _, _ => []
  | n + 1, s, i, j =>
    let i1 := i + 1#8
    let j1 := j + s i1
    let s1 := swap s i1 j1
    s1 (s1 i1 + s1 j1) :: stream n s1 i1 j1

/-- The first `n` keystream bytes of a key, none discarded (R101). -/
def keystream (k : ByteSeq) (n : Nat) : ByteSeq :=
  stream n (schedule k 256).1 0#8 0#8

/-- `Transform(K, D)`: the data xor the keystream, byte by byte (R102). -/
def transform (k d : ByteSeq) : ByteSeq :=
  List.zipWith (· ^^^ ·) d (keystream k d.length)

/-- The characters '0'..'9', 'a'..'f' (R66). -/
def lowerDigits : ByteSeq :=
  [0x30#8, 0x31#8, 0x32#8, 0x33#8, 0x34#8, 0x35#8, 0x36#8, 0x37#8, 0x38#8, 0x39#8, 0x61#8, 0x62#8, 0x63#8, 0x64#8,
    0x65#8, 0x66#8]

/-- The characters of the digit values with upper-case letters (R66). -/
def upperDigits : ByteSeq :=
  [0x30#8, 0x31#8, 0x32#8, 0x33#8, 0x34#8, 0x35#8, 0x36#8, 0x37#8, 0x38#8, 0x39#8, 0x41#8, 0x42#8, 0x43#8, 0x44#8,
    0x45#8, 0x46#8]

/-- The two characters of a byte, high digit first (R42, R65). -/
def hexByte (b : Byte) : ByteSeq :=
  [lowerDigits.getD (b.toNat / 16) 0#8, lowerDigits.getD (b.toNat % 16) 0#8]

/-- The hex characters of a sequence (R120). -/
def hex (x : ByteSeq) : ByteSeq :=
  x.flatMap hexByte

/-- The value of a hex digit character; `none` for every other byte (R66, R121). -/
def digitValue (upper : Bool) (c : Byte) : Option Nat :=
  match lowerDigits.idxOf? c with
  | some v => some v
  | none => if upper then upperDigits.idxOf? c else none

/-- The bytes an even number of hex digits encode; `none` where the count is odd or a byte is no digit (R121). -/
def unhex (upper : Bool) : ByteSeq → Option ByteSeq
  | [] => some []
  | [_] => none
  | h :: l :: rest =>
    match digitValue upper h, digitValue upper l, unhex upper rest with
    | some vh, some vl, some bs => some (BitVec.ofNat 8 (16 * vh + vl) :: bs)
    | _, _, _ => none

/-- The token of an address (R65, R122). -/
def token (p : Params) (a : ByteSeq) : ByteSeq :=
  marker :: hex (checksum a :: transform (key p (checksum a)) a)

/-- UNPACK's outcome on a token (R123, R124, R151). -/
def validate (p : Params) (t : ByteSeq) : Status × ByteSeq :=
  if t.length < 20 then (.tooShort, [])
  else if t.head? ≠ some 0x40#8 then (.badPrefix, [])
  else
    match unhex p.hexAcceptUpper t.tail with
    | none => (.badEncoding, [])
    | some payload =>
      let c := payload.headD 0#8
      let plain := transform (key p c) payload.tail
      if checksum plain = c then (.ok, plain) else (.checksumMismatch, [])

/-- A length above MAX_LEN (R64). -/
def overlong (p : Params) (n : Nat) : Bool :=
  match p.maxLen with
  | none => false
  | some m => decide (m < n)

/-- Does a command break its row of R61 (R63, R152)? -/
def breaksRow : Instr → Bool
  | .csum _ b => b != []
  | .derive a b => a.length != 1 || b != []
  | .xform a _ => a.length != 13
  | .pack a b => a == [] || b != []
  | .unpack _ b => b != []

/-- What a command answers when its operands fit and keep its row (R80, R90, R103, R122, R123). -/
def outcome (p : Params) : Instr → Status × ByteSeq
  | .csum a _ => (.ok, [checksum a])
  | .derive a _ => (.ok, key p (a.headD 0#8))
  | .xform a b => (.ok, transform a b)
  | .pack a _ => (.ok, token p a)
  | .unpack a _ => validate p a

/-- What a command answers (R152, R153). -/
def answer (p : Params) (i : Instr) : Status × ByteSeq :=
  if overlong p i.opA.length || overlong p i.opB.length then (.overlength, [])
  else if breaksRow i then (.badOperand, [])
  else outcome p i

/-- What a request answers (R62, R153). -/
def answerRequest (p : Params) (r : Request) : Status × ByteSeq :=
  match decodeRequest r with
  | none => (.illegalCommand, [])
  | some i => answer p i

/-- The response frame of a request: it depends on the request and the parameters alone (R30, R60). -/
def answerFrame (p : Params) (r : Request) : ByteSeq :=
  responseFrame (answerRequest p r).1 (answerRequest p r).2

/-- The response frames of a list of requests, in order (R47). -/
def frames (p : Params) (rs : List Request) : ByteSeq :=
  rs.flatMap (answerFrame p)

end Sys2Proof.Reference
end

