-- ==== Sys2Proof/Safety.lean ====
section
/-!
DEFINITION. What counts as a legal state and as a run that claims are about.
-/

namespace Sys2Proof.Machine

/-- What every state the block can be in has. From a reset to the first response after it the clauses on RSP_STATUS, RSP_R and
the buffers are about the values of log 4, since R33 leaves them unspecified there. -/
structure State.Inv (s : State) : Prop where
  /-- An IDLE block holds no request, whole or in part (R22). -/
  idle_holds_nothing : s.ctl = .idle → s.latch = none ∧ s.rx = []
  /-- A BUSY block holds one request: a whole one whose operands its length fields could announce, or the bytes of an
  incomplete one (R22, R60). -/
  busy_holds_one : s.ctl = .busy →
    (∃ r, s.latch = some r ∧ r.wf = true ∧ s.rx = []) ∨ (s.latch = none ∧ s.rx ≠ [] ∧ parseFrame s.rx = none)
  /-- While reset is asserted the block is IDLE, and gives the host nothing to read (R170, R173). -/
  reset_holds : s.rst = true → s.ctl = .idle ∧ s.rspValid = false
  /-- RSP_STATUS holds a legal value (R31). -/
  status_legal : statusLegal s.rspStatus = true
  /-- Unless the status is OK the result is empty (R64). -/
  error_empty : s.rspStatus ≠ Status.ok.code → s.rspR = []
  /-- Between commands no buffer is longer than MAX_LEN (R29). -/
  buffers_fit : s.par.Within s.work.pay.length ∧ s.par.Within s.work.ct.length ∧ s.par.Within s.work.pt.length ∧
    s.par.Within s.work.out.length

/-- The block is waiting for a request, with none on its port. -/
def State.Ready (s : State) : Prop :=
  s.rst = false ∧ s.ctl = .idle ∧ s.reqIn = []

/-- The block is executing the request `r`. -/
def State.Executing (s : State) (r : Request) : Prop :=
  s.rst = false ∧ s.ctl = .busy ∧ s.latch = some r

/-- No response of the list reports a block error: the premise of claims about the source's behaviour (R159). -/
def NoBlockError (responses : List (Byte × ByteSeq)) : Prop :=
  ∀ r ∈ responses, ∀ st : Status, st.isBlockError = true → r.1 ≠ st.code

end Sys2Proof.Machine
end

