-- ==== Sys2Proof/Certificates/Slice0/Obligations.lean ====
section
/-!
DEFINITION. The statements. Each docstring names the rules of spec/ it formalises; `Reference` holds the closed forms of
Machine/Reference.lean. A statement about every state holds for every MAGIC, MAX_LEN and HEX_ACCEPT_UPPER, since every
state carries its own.
-/

open Sys2Proof Sys2Proof.Machine

/-! ## Encoding (30_encoding.md) -/

/-- Frames written out from R60, R61 and R69 decode to the commands they stand for. -/
def Obligations.SpecFramesDecode : Prop :=
  decode [0x01#8, 0#8, 0#8, 0#8, 1#8, 0x61#8, 0#8, 0#8, 0#8, 0#8] = .instr (.csum [0x61#8] []) [] ∧
  decode [0x02#8, 0#8, 0#8, 0#8, 1#8, 0x1e#8, 0#8, 0#8, 0#8, 0#8] = .instr (.derive [0x1e#8] []) [] ∧
  decode [0x03#8, 0#8, 0#8, 0#8, 2#8, 0x0a#8, 0x0b#8, 0#8, 0#8, 0#8, 1#8, 0x68#8, 0x05#8] =
    .instr (.xform [0x0a#8, 0x0b#8] [0x68#8]) [0x05#8] ∧
  decode [0x04#8, 0#8, 0#8, 0#8, 0#8, 0#8, 0#8, 0#8, 0#8] = .instr (.pack [] []) [] ∧
  decode [0x05#8, 0#8, 0#8, 0#8, 1#8, 0x40#8, 0#8, 0#8, 0#8, 0#8] = .instr (.unpack [0x40#8] []) [] ∧
  decode [0x07#8, 0#8, 0#8, 0#8, 0#8, 0#8, 0#8, 0#8, 0#8] = .illegalCommand ⟨0x07#8, [], []⟩ [] ∧
  decode [0x05#8, 0#8, 0#8, 0#8, 1#8] = .incompleteFrame

/-- Decoding the frame of any command a frame can carry gives the command back, and the bytes after it (R60, R61, R67). -/
def Obligations.DecodeOfEncodeIsTheCommand : Prop :=
  ∀ (i : Instr) (rest : ByteSeq), i.wf = true → decode (encode i ++ rest) = .instr i rest

/-- Bytes decode to a command only if they begin with that command's frame (R60, R61). -/
def Obligations.DecodedBytesAreTheEncoding : Prop :=
  ∀ (bs rest : ByteSeq) (i : Instr), decode bs = .instr i rest → i.wf = true ∧ bs = encode i ++ rest

/-- A request frame is `9 + LENA + LENB` bytes, its end is where its length fields say, and no proper part of it is a
frame (R60). The first clause counts the bytes also for a request that no frame can carry, where they are log 26's. -/
def Obligations.LengthFieldsFixTheFrameEnd : Prop :=
  (∀ r : Request, (requestFrame r).length = 9 + r.a.length + r.b.length) ∧
  (∀ (bs rest : ByteSeq) (r : Request),
    parseFrame bs = some (r, rest) ↔ r.wf = true ∧ bs = requestFrame r ++ rest) ∧
  (∀ (r : Request) (front back : ByteSeq), r.wf = true → requestFrame r = front ++ back → back ≠ [] →
    parseFrame front = none)

/-- The length fields of request and response frames are 32 bits, most significant byte first (R43, R60). -/
def Obligations.LengthFieldsAreBigEndian : Prop :=
  (∀ r : Request, r.wf = true → ∃ b3 b2 b1 b0 : Byte,
    (requestFrame r).take 5 = [r.op, b3, b2, b1, b0] ∧
    r.a.length = b3.toNat * 2 ^ 24 + b2.toNat * 2 ^ 16 + b1.toNat * 2 ^ 8 + b0.toNat) ∧
  (∀ r : Request, r.wf = true → ∃ b3 b2 b1 b0 : Byte,
    ((requestFrame r).drop (5 + r.a.length)).take 4 = [b3, b2, b1, b0] ∧
    r.b.length = b3.toNat * 2 ^ 24 + b2.toNat * 2 ^ 16 + b1.toNat * 2 ^ 8 + b0.toNat) ∧
  (∀ (st : Status) (x : ByteSeq), x.length < 2 ^ 32 → ∃ b3 b2 b1 b0 : Byte,
    responseFrame st x = st.code :: b3 :: b2 :: b1 :: b0 :: x ∧
    x.length = b3.toNat * 2 ^ 24 + b2.toNat * 2 ^ 16 + b1.toNat * 2 ^ 8 + b0.toNat)

/-- Opcodes 0x00 and 0x06 to 0xFF are reserved, and no others are; a request with one completes with IllegalCommand and
an empty result and changes no persistent state, and no other request completes with IllegalCommand (R62). -/
def Obligations.ReservedOpcodesAnswerIllegalCommand : Prop :=
  (∀ r : Request, decodeRequest r = none ↔ r.op = 0#8 ∨ 6 ≤ r.op.toNat) ∧
  (∀ (r : Request) (s : State), s.Executing r → (r.op = 0#8 ∨ 6 ≤ r.op.toNat) → ∃ t : State,
    step s = .next t ∧ t.rspStatus = 0x10#8 ∧ t.rspR = [] ∧ t.par = s.par) ∧
  (∀ (r : Request) (s t : State), s.Executing r → step s = .next t → t.rspStatus = 0x10#8 →
    r.op = 0#8 ∨ 6 ≤ r.op.toNat)

/-- `CSUM "a"` assembles to the frame bytes R69 gives, and the other forms of R69 and R70 to the lines they stand for
(the details of a line's text are log 20). -/
def Obligations.SourceLinesAssemble : Prop :=
  readLine ['C', 'S', 'U', 'M', ' ', ' ', ' ', '"', 'a', '"'] = some [.csum (.bytes [0x61#8])] ∧
  (Line.csum (.bytes [0x61#8])).assemble [] = some (.csum [0x61#8] []) ∧
  encode (.csum [0x61#8] []) = [0x01#8, 0#8, 0#8, 0#8, 1#8, 0x61#8, 0#8, 0#8, 0#8, 0#8] ∧
  readLine ['D', 'E', 'R', 'I', 'V', 'E', ' ', '$', 'R', '[', '1', '0', ']'] = some [.derive (.resultAt 10)] ∧
  readLine ['X', 'F', 'O', 'R', 'M', ' ', 'x', '"', '0', 'a', '"', ',', ' ', '$', 'R', ' ', ';', 'c'] =
    some [.xform (.bytes [0x0a#8]) .result] ∧
  readLine ['K', 'E', 'Y', 'O', 'F', ' ', '"', ';', '"'] = some [.csum (.bytes [0x3b#8]), .derive (.resultAt 0)] ∧
  readLine ['R', 'O', 'U', 'N', 'D', 'T', 'R', 'I', 'P', ' ', '"', '"'] =
    some [.pack (.bytes []), .unpack .result]

/-! ## The step (10_state.md R22; 70_reset_and_hazards.md R170, R174) -/

/-- An IDLE block takes the next complete request, latches OP, A and B and goes to BUSY; the bytes after it stay on the
port (R22, R174). That taking a frame is a step of its own is the MODEL's choice (log 8). -/
def Obligations.IdleBlockLatchesTheRequest : Prop :=
  ∀ (s : State) (r : Request) (rest : ByteSeq), s.rst = false → s.ctl = .idle → r.wf = true →
    s.reqIn = requestFrame r ++ rest →
    step s = .next { s with ctl := .busy, latch := some r, rx := [], reqIn := rest }

/-- A BUSY block whose latched request decodes to a command: one step is the command's meaning, nothing added
(R22, R61). -/
def Obligations.StepRunsTheDecodedCommand : Prop :=
  ∀ (s : State) (r : Request) (i : Instr), s.Executing r → decodeRequest r = some i → step s = exec i s

/-- From the bytes: an IDLE block with the frame of a command at its port latches it in one step and executes exactly
that command in the next (R22, R60, R61; the two steps are the MODEL's choice, log 8). -/
def Obligations.FrameAtThePortIsExecuted : Prop :=
  ∀ (s : State) (i : Instr) (rest : ByteSeq), s.rst = false → s.ctl = .idle → i.wf = true →
    s.reqIn = encode i ++ rest → ∃ u : State,
      step s = .next u ∧ u = { s with ctl := .busy, latch := some i.request, rx := [], reqIn := rest } ∧
      step u = exec i u

/-- With a partial frame the block is BUSY, and while the rest does not come it takes no step and gives no response
(R60, R174). That it is BUSY from the first byte is the MODEL's reading (log 9). -/
def Obligations.PartialFrameLeavesTheBlockStuck : Prop :=
  ∀ (s : State), s.rst = false → s.ctl = .idle → s.reqIn ≠ [] → parseFrame s.reqIn = none → ∃ u : State,
    step s = .next u ∧ u = { s with ctl := .busy, latch := none, rx := s.reqIn, reqIn := [] } ∧
    step u = .fault .partialFrame

/-- A BUSY block that is receiving a frame keeps the bytes that come until the frame is complete, and latches it then; so a
frame that arrives in any number of parts is latched as if it had come whole (R60; the stage at which BUSY begins is log 9,
and the host that sends the parts is `sendParts`, log 15). -/
def Obligations.SplitFrameIsLatchedWhole : Prop :=
  (∀ s : State, s.rst = false → s.ctl = .busy → s.latch = none → s.reqIn ≠ [] →
    parseFrame (s.rx ++ s.reqIn) = none →
    step s = .next { s with rx := s.rx ++ s.reqIn, reqIn := [] }) ∧
  (∀ (s : State) (r : Request) (rest : ByteSeq), s.rst = false → s.ctl = .busy → s.latch = none → s.reqIn ≠ [] →
    r.wf = true → s.rx ++ s.reqIn = requestFrame r ++ rest →
    step s = .next { s with latch := some r, rx := [], reqIn := rest }) ∧
  (∀ (s : State) (r : Request) (parts : List ByteSeq) (last more : ByteSeq), s.Ready → r.wf = true →
    requestFrame r = parts.flatten ++ last → (∀ part ∈ parts, part ≠ []) → last ≠ [] → ∃ u : State,
      sendParts parts s = .next u ∧ u.rspOut = s.rspOut ∧
      (parts ≠ [] → u = { s with ctl := .busy, latch := none, rx := parts.flatten, reqIn := [] }) ∧
      step (u.hostSend (last ++ more)) = .next { s with ctl := .busy, latch := some r, rx := [], reqIn := more })

/-- Bytes the host sends while a command is being executed wait on the port, nothing is lost, and the command is not
affected (R22, R174; that the host may send at any time is log 22). -/
def Obligations.BytesSentWhileBusyWait : Prop :=
  ∀ (s t : State) (r : Request) (bs : ByteSeq), s.Executing r → step s = .next t →
    step (s.hostSend bs) = .next (t.hostSend bs) ∧ t.reqIn = s.reqIn

/-- Asserting reset abandons a BUSY command at once, and while reset is asserted the block accepts no request and gives no
response, MAGIC is untouched, and no response can be read; at its deassertion, with or without a step in between, CTL is
IDLE and the next complete frame is accepted (R33, R170, R173). That sent bytes and given responses stay at the ports is
log 13. -/
def Obligations.ResetAbandonsTheCommand : Prop :=
  let held (s t : State) : Prop :=
    t.par = s.par ∧ t.rst = true ∧ t.ctl = .idle ∧ t.latch = none ∧ t.rx = [] ∧ t.rspOut = s.rspOut ∧
    t.reqIn = s.reqIn ∧ t.hostReadStatus = none ∧ t.hostReadResult = none
  let released (s u : State) : Prop :=
    u.par = s.par ∧ u.rst = false ∧ u.ctl = .idle ∧ u.latch = none ∧ u.rx = [] ∧ u.rspOut = s.rspOut ∧
    u.hostReadStatus = none ∧ u.hostReadResult = none ∧
    ∀ (r : Request) (rest : ByteSeq), r.wf = true → s.reqIn = requestFrame r ++ rest → ∃ v : State,
      step u = .next v ∧ v.Executing r ∧ v.reqIn = rest ∧ v.rspOut = s.rspOut
  (∀ s : State, held s (s.setReset true) ∧ released s ((s.setReset true).setReset false)) ∧
  (∀ s : State, s.rst = true → released s (s.setReset false) ∧
    ∃ t : State, step s = .next t ∧ held s t ∧ released s (t.setReset false))

/-- After reset: IDLE, MAGIC as built, nothing latched, and no response to read yet (R23, R33, R171, R173). That the MODEL's
reset state has HEX_ACCEPT_UPPER at its default, true, is the MODEL's choice (log 3). -/
def Obligations.ResetStateIsIdle : Prop :=
  (∀ p : Params, (State.resetWith p).ctl = .idle ∧ (State.resetWith p).par = p ∧ (State.resetWith p).latch = none ∧
    (State.resetWith p).hostReadStatus = none ∧ (State.resetWith p).hostReadResult = none) ∧
  State.reset.ctl = .idle ∧ State.reset.par.magic = Config.magic ∧ State.reset.par.hexAcceptUpper = true

/-- No step writes MAGIC or any other parameter (R23, R50, R170). -/
def Obligations.StepNeverWritesMagic : Prop :=
  ∀ s t : State, step s = .next t → t.par = s.par

/-! ## The commands (40_checksum.md to 43_codec.md) -/

/-- CSUM: its encoding, and what it answers in each of its cases (R80). -/
def Obligations.CsumRule : Prop :=
  ∀ (a b : ByteSeq) (s : State),
    decodeRequest ⟨0x01#8, a, b⟩ = some (.csum a b) ∧
    (¬ (s.par.Within a.length ∧ s.par.Within b.length) →
      exec (.csum a b) s = .next (s.complete .overlength [])) ∧
    (s.par.Within a.length → s.par.Within b.length → b ≠ [] →
      exec (.csum a b) s = .next (s.complete .badOperand [])) ∧
    (s.par.Within a.length → b = [] →
      exec (.csum a b) s = .next (s.complete .ok [BitVec.ofNat 8 ((a.map BitVec.toNat).sum % 256)]))

/-- DERIVE: its encoding, and what it answers in each of its cases (R90). -/
def Obligations.DeriveRule : Prop :=
  ∀ (a b : ByteSeq) (s : State),
    decodeRequest ⟨0x02#8, a, b⟩ = some (.derive a b) ∧
    (¬ (s.par.Within a.length ∧ s.par.Within b.length) →
      exec (.derive a b) s = .next (s.complete .overlength [])) ∧
    (s.par.Within a.length → s.par.Within b.length → (a.length ≠ 1 ∨ b ≠ []) →
      exec (.derive a b) s = .next (s.complete .badOperand [])) ∧
    (∀ c : Byte, a = [c] → b = [] →
      exec (.derive a b) s = .next (s.complete .ok ([c] ++ s.par.magic.toList.drop 1)))

/-- XFORM: its encoding, and what it answers in each of its cases (R103), the keystream being that of the standard loops of
R100 and R101. -/
def Obligations.XformRule : Prop :=
  ∀ (a b : ByteSeq) (s : State),
    decodeRequest ⟨0x03#8, a, b⟩ = some (.xform a b) ∧
    (¬ (s.par.Within a.length ∧ s.par.Within b.length) →
      exec (.xform a b) s = .next (s.complete .overlength [])) ∧
    (s.par.Within a.length → s.par.Within b.length → a.length ≠ 13 →
      exec (.xform a b) s = .next (s.complete .badOperand [])) ∧
    (a.length = 13 → s.par.Within b.length →
      exec (.xform a b) s = .next (s.complete .ok (Reference.transform a b)))

/-- PACK: its encoding, and what it answers in each of its cases (R122). -/
def Obligations.PackRule : Prop :=
  ∀ (a b : ByteSeq) (s : State),
    decodeRequest ⟨0x04#8, a, b⟩ = some (.pack a b) ∧
    (¬ (s.par.Within a.length ∧ s.par.Within b.length) →
      exec (.pack a b) s = .next (s.complete .overlength [])) ∧
    (s.par.Within a.length → s.par.Within b.length → (a = [] ∨ b ≠ []) →
      exec (.pack a b) s = .next (s.complete .badOperand [])) ∧
    (s.par.Within a.length → a ≠ [] → b = [] →
      exec (.pack a b) s = .next (s.complete .ok
        ([0x40#8] ++ Reference.hex ([Reference.checksum a] ++
          Reference.transform (Reference.key s.par (Reference.checksum a)) a))))

/-- UNPACK: its encoding, and what it answers in each of its cases, stage by stage (R123, R124). -/
def Obligations.UnpackRule : Prop :=
  ∀ (a b : ByteSeq) (s : State),
    decodeRequest ⟨0x05#8, a, b⟩ = some (.unpack a b) ∧
    (¬ (s.par.Within a.length ∧ s.par.Within b.length) →
      exec (.unpack a b) s = .next (s.complete .overlength [])) ∧
    (s.par.Within a.length → s.par.Within b.length → b ≠ [] →
      exec (.unpack a b) s = .next (s.complete .badOperand [])) ∧
    (s.par.Within a.length → b = [] →
      (a.length < 20 → exec (.unpack a b) s = .next (s.complete .tooShort [])) ∧
      (20 ≤ a.length → a.head? ≠ some 0x40#8 → exec (.unpack a b) s = .next (s.complete .badPrefix [])) ∧
      (20 ≤ a.length → a.head? = some 0x40#8 → Reference.unhex s.par.hexAcceptUpper a.tail = none →
        exec (.unpack a b) s = .next (s.complete .badEncoding [])) ∧
      (∀ (c : Byte) (ct : ByteSeq), 20 ≤ a.length → a.head? = some 0x40#8 →
        Reference.unhex s.par.hexAcceptUpper a.tail = some (c :: ct) →
        exec (.unpack a b) s =
          if Reference.checksum (Reference.transform (Reference.key s.par c) ct) = c then
            .next (s.complete .ok (Reference.transform (Reference.key s.par c) ct))
          else .next (s.complete .checksumMismatch [])))

/-- The registers compute the reference: every request being executed gets the answer the closed forms give, whatever the
working registers held (R30, R62, R80, R90, R103, R122, R123, R153). -/
def Obligations.EveryRequestGetsItsReferenceAnswer : Prop :=
  ∀ (s : State) (r : Request), s.Executing r →
    step s = .next (s.complete (Reference.answerRequest s.par r).1 (Reference.answerRequest s.par r).2)

/-- What every command changes and what it leaves (R22, R23, R30, R50, R60, R154): CTL is IDLE with nothing latched; the
response is in RSP_STATUS and RSP_R, readable, and given as one frame after those given before; the parameters, MAGIC
among them, the reset input, the bytes on the request port and the receive bytes are unchanged. The working registers,
which nothing reads before writing, are left unspecified and the statement says nothing of them. -/
def Obligations.CommandFrame : Prop :=
  ∀ (i : Instr) (s t : State), exec i s = .next t →
    t.par = s.par ∧ t.rst = s.rst ∧ t.reqIn = s.reqIn ∧ t.rx = s.rx ∧ t.ctl = .idle ∧ t.latch = none ∧
    t.hostReadStatus = some t.rspStatus ∧ t.hostReadResult = some t.rspR ∧
    (t.rspR.length < 2 ^ 32 →
      t.rspOut = s.rspOut ++ (t.rspStatus :: (be32Bytes t.rspR.length ++ t.rspR))) ∧
    ∃ lenr : ByteSeq, lenr.length = 4 ∧ t.rspOut = s.rspOut ++ (t.rspStatus :: (lenr ++ t.rspR))

/-- Every request, and every command, ends in exactly one of three outcomes, with an empty result unless it succeeds; none
hangs (R150). -/
def Obligations.EveryCommandEndsInOneOutcome : Prop :=
  let ends (t : State) : Prop :=
    t.rspStatus = 0x00#8 ∨
      (1 ≤ t.rspStatus.toNat ∧ t.rspStatus.toNat ≤ 4 ∧ t.rspR = []) ∨
      (0x10 ≤ t.rspStatus.toNat ∧ t.rspStatus.toNat ≤ 0x12 ∧ t.rspR = [])
  (∀ (r : Request) (s : State), s.Executing r → ∃ t : State, step s = .next t ∧ t.ctl = .idle ∧ ends t) ∧
  (∀ (i : Instr) (s : State), ∃ t : State, exec i s = .next t ∧ t.ctl = .idle ∧ ends t)

/-- The causes of the FormatErrors: only UNPACK raises them, each exactly for its cause, and the result is then empty
(R151). -/
def Obligations.FormatErrorCauses : Prop :=
  ∀ (i : Instr) (s t : State), exec i s = .next t →
    (t.rspStatus = 0x01#8 ↔ ∃ a : ByteSeq, i = .unpack a [] ∧ s.par.Within a.length ∧ a.length < 20) ∧
    (t.rspStatus = 0x02#8 ↔ ∃ a : ByteSeq, i = .unpack a [] ∧ s.par.Within a.length ∧ 20 ≤ a.length ∧
      a.head? ≠ some 0x40#8) ∧
    (t.rspStatus = 0x03#8 ↔ ∃ a : ByteSeq, i = .unpack a [] ∧ s.par.Within a.length ∧ 20 ≤ a.length ∧
      a.head? = some 0x40#8 ∧ ((a.length - 1) % 2 = 1 ∨ ∃ c ∈ a.tail, isHexDigit s.par c = false)) ∧
    (t.rspStatus = 0x04#8 ↔ ∃ (a : ByteSeq) (c : Byte) (ct : ByteSeq), i = .unpack a [] ∧ s.par.Within a.length ∧
      20 ≤ a.length ∧ a.head? = some 0x40#8 ∧ Reference.unhex s.par.hexAcceptUpper a.tail = some (c :: ct) ∧
      Reference.checksum (Reference.transform (Reference.key s.par c) ct) ≠ c) ∧
    (1 ≤ t.rspStatus.toNat → t.rspStatus.toNat ≤ 4 → t.rspR = [])

/-- The causes of the block errors, each exactly for its cause where no earlier one applies (R152, R153): a reserved opcode,
an operand above MAX_LEN, an operand that breaks its opcode's row. -/
def Obligations.BlockErrorCauses : Prop :=
  ∀ (r : Request) (s t : State), s.Executing r → step s = .next t →
    let reserved := r.op = 0#8 ∨ 6 ≤ r.op.toNat
    let fit := s.par.Within r.a.length ∧ s.par.Within r.b.length
    (t.rspStatus = 0x10#8 ↔ reserved) ∧
    (t.rspStatus = 0x12#8 ↔ ¬ reserved ∧ ¬ fit) ∧
    (t.rspStatus = 0x11#8 ↔ fit ∧
      (((r.op = 0x01#8 ∨ r.op = 0x04#8 ∨ r.op = 0x05#8) ∧ r.b ≠ []) ∨
        (r.op = 0x02#8 ∧ (r.a.length ≠ 1 ∨ r.b ≠ [])) ∨ (r.op = 0x03#8 ∧ r.a.length ≠ 13) ∨
        (r.op = 0x04#8 ∧ r.a = [])))

/-- A request that meets several causes reports the first of the seven (R153). -/
def Obligations.ErrorsAreReportedInPriorityOrder : Prop :=
  ∀ (r : Request) (s t : State), s.Executing r → step s = .next t →
    let reserved := r.op = 0#8 ∨ 6 ≤ r.op.toNat
    let tooLong := ¬ (s.par.Within r.a.length ∧ s.par.Within r.b.length)
    let badShape := (r.op ≠ 0x03#8 ∧ r.b ≠ []) ∨ (r.op = 0x02#8 ∧ r.a.length ≠ 1) ∨
      (r.op = 0x03#8 ∧ r.a.length ≠ 13) ∨ (r.op = 0x04#8 ∧ r.a = [])
    let short := r.op = 0x05#8 ∧ r.a.length < 20
    let noMarker := r.op = 0x05#8 ∧ r.a.head? ≠ some 0x40#8
    let notHex := r.op = 0x05#8 ∧ (r.a.tail.length % 2 = 1 ∨ ∃ c ∈ r.a.tail, isHexDigit s.par c = false)
    (reserved → t.rspStatus = 0x10#8) ∧
    (¬ reserved → tooLong → t.rspStatus = 0x12#8) ∧
    (¬ reserved → ¬ tooLong → badShape → t.rspStatus = 0x11#8) ∧
    (¬ reserved → ¬ tooLong → ¬ badShape → short → t.rspStatus = 0x01#8) ∧
    (¬ reserved → ¬ tooLong → ¬ badShape → ¬ short → noMarker → t.rspStatus = 0x02#8) ∧
    (¬ reserved → ¬ tooLong → ¬ badShape → ¬ short → ¬ noMarker → notHex → t.rspStatus = 0x03#8) ∧
    (¬ reserved → ¬ tooLong → ¬ badShape → ¬ short → ¬ noMarker → ¬ notHex →
      t.rspStatus = 0x00#8 ∨ (r.op = 0x05#8 ∧ t.rspStatus = 0x04#8))

/-! ## The datapath registers (10_state.md R24 to R29) -/

/-- The checksum step leaves the sum in ACC and writes ACC and N alone (R24, R81). -/
def Obligations.ChecksumStepWritesAccAndN : Prop :=
  ∀ (x : ByteSeq) (w : Work),
    (w.checksum x).acc = BitVec.ofNat 8 ((x.map BitVec.toNat).sum % 256) ∧
    (w.checksum x).sumb = w.sumb ∧ (w.checksum x).key = w.key ∧ (w.checksum x).sbox = w.sbox ∧
    (w.checksum x).i = w.i ∧ (w.checksum x).j = w.j ∧ (w.checksum x).z = w.z ∧ (w.checksum x).pay = w.pay ∧
    (w.checksum x).ct = w.ct ∧ (w.checksum x).pt = w.pt ∧ (w.checksum x).out = w.out

/-- Truncating at the end gives the same, the checksum of a split is the sum of its parts', and it does not change under
a permutation (R82). -/
def Obligations.ChecksumGroupingLaws : Prop :=
  (∀ (x : ByteSeq) (w : Work), (w.checksum x).acc.toNat = (x.map BitVec.toNat).sum % 256) ∧
  (∀ (y z : ByteSeq) (w u v : Work),
    (w.checksum (y ++ z)).acc.toNat = ((u.checksum y).acc.toNat + (v.checksum z).acc.toNat) % 256) ∧
  (∀ (x y : ByteSeq) (w u : Work), x.Perm y → (w.checksum x).acc = (u.checksum y).acc)

/-- The derivation step puts c into KEY[0] and MAGIC[N] into KEY[N], does not read MAGIC[0], and writes KEY and N alone; no
response of the block depends on MAGIC[0] (R91). -/
def Obligations.DeriveStepWritesTheKey : Prop :=
  (∀ (p : Params) (c : Byte) (w : Work),
    (w.deriveKey p c).key[0] = c ∧
    (∀ (n : Nat) (h : n < 13), 1 ≤ n → (w.deriveKey p c).key[n] = p.magic[n]) ∧
    (∀ b : Byte, w.deriveKey { p with magic := p.magic.set 0 b } c = w.deriveKey p c) ∧
    (w.deriveKey p c).acc = w.acc ∧ (w.deriveKey p c).sumb = w.sumb ∧ (w.deriveKey p c).sbox = w.sbox ∧
    (w.deriveKey p c).i = w.i ∧ (w.deriveKey p c).j = w.j ∧ (w.deriveKey p c).z = w.z ∧
    (w.deriveKey p c).pay = w.pay ∧ (w.deriveKey p c).ct = w.ct ∧ (w.deriveKey p c).pt = w.pt ∧
    (w.deriveKey p c).out = w.out) ∧
  (∀ (r : Request) (s t v : State) (b : Byte), s.Executing r → step s = .next t →
    step { s with par := { s.par with magic := s.par.magic.set 0 b } } = .next v →
    t.rspStatus = v.rspStatus ∧ t.rspR = v.rspR)

/-- The keys of two checksums differ exactly in byte 0 (R92). -/
def Obligations.KeysDifferInByteZero : Prop :=
  ∀ (p : Params) (c d : Byte) (w u : Work), c ≠ d →
    ∀ (n : Nat) (h : n < 13), ((w.deriveKey p c).key[n] ≠ (u.deriveKey p d).key[n] ↔ n = 0)

/-- The key-scheduling pass leaves in S the permutation of the standard schedule, which depends on the key alone; I plays
no part in it (R27, R100). -/
def Obligations.KeyScheduleLeavesAPermutation : Prop :=
  ∀ (key : ByteSeq) (w : Work), 1 ≤ key.length →
    (w.ksa key).readS = (Reference.schedule key 256).1 ∧
    Function.Bijective (w.ksa key).readS ∧
    (∀ u : Work, (w.ksa key).sbox = (u.ksa key).sbox) ∧
    (w.ksa key).i = w.i ∧ (w.ksa key).acc = w.acc ∧ (w.ksa key).sumb = w.sumb ∧ (w.ksa key).key = w.key ∧
    (w.ksa key).z = w.z ∧ (w.ksa key).pay = w.pay ∧ (w.ksa key).ct = w.ct ∧ (w.ksa key).pt = w.pt ∧
    (w.ksa key).out = w.out

/-- The byte-generation pass produces the standard generator's bytes from S, starts from I = J = 0 whatever they held,
keeps S a permutation, and writes S, I, J, N and the keystream alone (R27, R101). -/
def Obligations.ByteGenerationKeepsAPermutation : Prop :=
  ∀ (n : Nat) (w : Work),
    (w.prga n).z = Reference.stream n w.readS 0#8 0#8 ∧ (w.prga n).z.length = n ∧
    (Function.Bijective w.readS → Function.Bijective (w.prga n).readS) ∧
    (w.prga n).acc = w.acc ∧ (w.prga n).sumb = w.sumb ∧ (w.prga n).key = w.key ∧ (w.prga n).pay = w.pay ∧
    (w.prga n).ct = w.ct ∧ (w.prga n).pt = w.pt ∧ (w.prga n).out = w.out

/-- The transform step leaves in OUT the data xor the keystream of KEY, a permutation in S, and writes S, I, J, N, the
keystream and OUT alone (R26, R27, R102). -/
def Obligations.TransformStepXorsTheKeystream : Prop :=
  ∀ (d : ByteSeq) (w : Work),
    (w.transform d).out = List.zipWith (· ^^^ ·) d (Reference.keystream w.key.toList d.length) ∧
    Function.Bijective (w.transform d).readS ∧
    (w.transform d).acc = w.acc ∧ (w.transform d).sumb = w.sumb ∧ (w.transform d).key = w.key ∧
    (w.transform d).pay = w.pay ∧ (w.transform d).ct = w.ct ∧ (w.transform d).pt = w.pt

/-- Applying the transform twice under one key gives the data back (R104). -/
def Obligations.TransformIsSelfInverse : Prop :=
  ∀ (d : ByteSeq) (w u : Work), w.key = u.key → (u.transform (w.transform d).out).out = d

/-- Length, empty data, prefix and xor laws of the transform (R105). -/
def Obligations.TransformLengthPrefixXorLaws : Prop :=
  (∀ (d : ByteSeq) (w : Work), (w.transform d).out.length = d.length) ∧
  (∀ w : Work, (w.transform []).out = []) ∧
  (∀ (d e : ByteSeq) (w u : Work), w.key = u.key →
    (w.transform (d ++ e)).out.take d.length = (u.transform d).out) ∧
  (∀ (d e : ByteSeq) (w u : Work), w.key = u.key → d.length = e.length →
    List.zipWith (· ^^^ ·) (w.transform d).out (u.transform e).out = List.zipWith (· ^^^ ·) d e)

/-- The hex characters: sixteen of them encode, and exactly the digits R66 and R121 name decode, to the values they give. -/
def Obligations.HexAlphabet : Prop :=
  (∀ v : BitVec 4, hexChar v =
    if v.toNat < 10 then BitVec.ofNat 8 (0x30 + v.toNat) else BitVec.ofNat 8 (0x61 + v.toNat - 10)) ∧
  (∀ (p : Params) (c : Byte), isHexDigit p c = true ↔
    (0x30 ≤ c.toNat ∧ c.toNat ≤ 0x39) ∨ (0x61 ≤ c.toNat ∧ c.toNat ≤ 0x66) ∨
    (p.hexAcceptUpper = true ∧ 0x41 ≤ c.toNat ∧ c.toNat ≤ 0x46)) ∧
  (∀ c : Byte, (0x30 ≤ c.toNat ∧ c.toNat ≤ 0x39 → (hexVal c).toNat = c.toNat - 0x30) ∧
    (0x61 ≤ c.toNat ∧ c.toNat ≤ 0x66 → (hexVal c).toNat = c.toNat - 0x61 + 10) ∧
    (0x41 ≤ c.toNat ∧ c.toNat ≤ 0x46 → (hexVal c).toNat = c.toNat - 0x41 + 10))

/-- Hex encoding gives the characters of each byte's high and low nibble in order, two a byte, all of them digits; decoding
gives one byte for each two digits, and of an encoding the bytes encoded (R120, R121). -/
def Obligations.HexDecodeOfHexEncode : Prop :=
  (∀ (x : ByteSeq) (w : Work),
    (w.hexEncode x).out = x.flatMap fun b => [hexChar (b.extractLsb' 4 4), hexChar (b.extractLsb' 0 4)]) ∧
  (∀ (h : ByteSeq) (w : Work), (w.hexDecode h).pay.length = h.length / 2 ∧
    ∀ k : Nat, k < h.length / 2 →
      (w.hexDecode h).pay[k]? = some (16#8 * hexVal (h.getD (2 * k) 0#8) + hexVal (h.getD (2 * k + 1) 0#8))) ∧
  (∀ (p : Params) (x : ByteSeq) (w u : Work),
    (w.hexEncode x).out.length = 2 * x.length ∧
    (∀ c ∈ (w.hexEncode x).out, isHexDigit p c = true) ∧
    (u.hexDecode (w.hexEncode x).out).pay = x)

/-! ## Independence (10_state.md R30, 20_memory.md R45, R47) -/

/-- A response depends on the request and the parameters alone: not on the working registers, nor on anything an earlier
command or a reset left. The response frame, its LENR field included, is the same too (R30, R45). -/
def Obligations.ResponseIgnoresWorkingState : Prop :=
  ∀ (r : Request) (s u : State), s.Executing r → u.Executing r → s.par = u.par → ∃ (t v : State) (frame : ByteSeq),
    step s = .next t ∧ step u = .next v ∧ t.rspStatus = v.rspStatus ∧ t.rspR = v.rspR ∧
    t.rspOut = s.rspOut ++ frame ∧ v.rspOut = u.rspOut ++ frame

/-- XFORM and CSUM do not consult MAGIC: only the derivation step reads it (R23, R103). -/
def Obligations.XformAndCsumIgnoreMagic : Prop :=
  (∀ (a d : ByteSeq) (s t v : State) (m : Vector Byte 13), exec (.xform a d) s = .next t →
    exec (.xform a d) { s with par := { s.par with magic := m } } = .next v →
    t.rspStatus = v.rspStatus ∧ t.rspR = v.rspR) ∧
  (∀ (a d : ByteSeq) (s t v : State) (m : Vector Byte 13), exec (.csum a d) s = .next t →
    exec (.csum a d) { s with par := { s.par with magic := m } } = .next v →
    t.rspStatus = v.rspStatus ∧ t.rspR = v.rspR)

/-- The same request gives the identical response, its frame included, whatever requests ran in between (R45, R126; how a
host runs requests is log 15). -/
def Obligations.RepeatedRequestsAnswerAlike : Prop :=
  ∀ (r : Request) (between : List Request) (s : State), s.Ready → r.wf = true → (∀ q ∈ between, q.wf = true) →
    ∃ (t u v : State) (frame : ByteSeq),
      hostRequest r s = .next t ∧ runRequests between t = .next u ∧ hostRequest r u = .next v ∧
      t.rspStatus = v.rspStatus ∧ t.rspR = v.rspR ∧ t.rspOut = s.rspOut ++ frame ∧ v.rspOut = u.rspOut ++ frame

/-- Requests waiting on the port are executed one at a time in their order, their responses come back whole and in the
same order, and the block is ready again (R47). The two steps a request are the MODEL's choice (log 8). -/
def Obligations.RequestsAreAnsweredInOrder : Prop :=
  ∀ (rs : List Request) (s : State), (∀ r ∈ rs, r.wf = true) → s.rst = false → s.ctl = .idle →
    s.reqIn = rs.flatMap requestFrame → ∃ t : State,
      Host.Core.run Sys2Proof.core (2 * rs.length) s = .next t ∧ t.Ready ∧
      t.rspOut = s.rspOut ++ Reference.frames s.par rs

/-- A host that sends the same requests one at a time gets the same bytes back (R47, R174; how a host runs
requests is log 15). -/
def Obligations.OneAtATimeGivesTheSameResponses : Prop :=
  ∀ (rs : List Request) (s : State), (∀ r ∈ rs, r.wf = true) → s.Ready → ∃ t : State,
    runRequests rs s = .next t ∧ t.Ready ∧ t.rspOut = s.rspOut ++ Reference.frames s.par rs

/-! ## Laws of the codec (43_codec.md R125 to R130) -/

/-- PACK's token of an address of 9 bytes or more unpacks to the address; that of a shorter one is TooShort (R125). -/
def Obligations.UnpackOfPackIsTheAddress : Prop :=
  ∀ (a : ByteSeq) (s u : State), a ≠ [] → s.par = u.par → s.par.Within (3 + 2 * a.length) → ∃ t v : State,
    exec (.pack a []) s = .next t ∧ t.rspStatus = Status.ok.code ∧ exec (.unpack t.rspR []) u = .next v ∧
    (9 ≤ a.length → v.rspStatus = Status.ok.code ∧ v.rspR = a) ∧
    (a.length ≤ 8 → v.rspStatus = Status.tooShort.code)

/-- A token begins with the marker and the two lower-case characters of the checksum, has `3 + 2 * n` bytes, and holds
lower-case digits alone after the marker (R65, R66, R122). -/
def Obligations.PackedTokenFormat : Prop :=
  ∀ (a : ByteSeq) (s : State), a ≠ [] → s.par.Within a.length → ∃ (t : State) (ct : ByteSeq),
    exec (.pack a []) s = .next t ∧ t.rspStatus = Status.ok.code ∧ ct.length = a.length ∧
    t.rspR = 0x40#8 :: (Reference.hexByte (Reference.checksum a) ++ Reference.hex ct) ∧
    t.rspR.length = 3 + 2 * a.length ∧ ∀ c ∈ t.rspR.tail, c ∈ Reference.lowerDigits

/-- Changing one ciphertext byte of an accepted token to another byte gives ChecksumMismatch, always; changing digits
without changing the byte gives the same address; a byte that is no digit gives BadEncoding (R127). The bytes at
1 + 2k and 2 + 2k are the digits of PAY[k]. -/
def Obligations.CiphertextTamperIsDetected : Prop :=
  ∀ (tok : ByteSeq) (s t u v : State) (k : Nat) (h l : Byte), s.par = u.par →
    exec (.unpack tok []) s = .next t → t.rspStatus = Status.ok.code → 1 ≤ k → 2 + 2 * k < tok.length →
    exec (.unpack ((tok.set (1 + 2 * k) h).set (2 + 2 * k) l) []) u = .next v →
    let same := 16#8 * hexVal h + hexVal l =
      16#8 * hexVal (tok.getD (1 + 2 * k) 0#8) + hexVal (tok.getD (2 + 2 * k) 0#8)
    (isHexDigit s.par h = true → isHexDigit s.par l = true → ¬ same →
      v.rspStatus = Status.checksumMismatch.code) ∧
    (isHexDigit s.par h = true → isHexDigit s.par l = true → same →
      v.rspStatus = Status.ok.code ∧ v.rspR = t.rspR) ∧
    (isHexDigit s.par h = false ∨ isHexDigit s.par l = false → v.rspStatus = Status.badEncoding.code)

/-- A change of the sum byte is accepted exactly when the new plaintext's checksum equals the new sum byte, and the
plaintext returned is then not the original (R128). -/
def Obligations.SumByteTamperOutcome : Prop :=
  ∀ (tok : ByteSeq) (s t u v : State) (h l : Byte) (c d : Byte) (ct : ByteSeq), s.par = u.par →
    exec (.unpack tok []) s = .next t → t.rspStatus = Status.ok.code →
    Reference.unhex s.par.hexAcceptUpper tok.tail = some (c :: ct) →
    isHexDigit s.par h = true → isHexDigit s.par l = true → d = 16#8 * hexVal h + hexVal l → d ≠ c →
    exec (.unpack ((tok.set 1 h).set 2 l) []) u = .next v →
    (v.rspStatus = Status.ok.code ↔
      Reference.checksum (Reference.transform (Reference.key s.par d) ct) = d) ∧
    (v.rspStatus = Status.ok.code ∨ v.rspStatus = Status.checksumMismatch.code) ∧
    (v.rspStatus = Status.ok.code → v.rspR ≠ t.rspR)

/-- Token lengths: PACK's are odd; an input that passes stages 1 to 3 begins with the marker and has odd length 21 or
more, and an address of (n - 3) / 2 bytes, 9 or more; none of length 20 is accepted (R130, R123). -/
def Obligations.TokenLengthLaw : Prop :=
  (∀ (a b : ByteSeq) (s t : State), exec (.pack a b) s = .next t → t.rspStatus = Status.ok.code →
    t.rspR.length = 3 + 2 * a.length ∧ 1 ≤ a.length) ∧
  (∀ (tok b : ByteSeq) (s t : State), exec (.unpack tok b) s = .next t →
    (t.rspStatus = Status.ok.code ∨ t.rspStatus = Status.checksumMismatch.code) →
    tok.length % 2 = 1 ∧ 21 ≤ tok.length ∧ tok.head? = some 0x40#8) ∧
  (∀ (tok b : ByteSeq) (s t : State), exec (.unpack tok b) s = .next t → t.rspStatus = Status.ok.code →
    t.rspR.length = (tok.length - 3) / 2 ∧ 9 ≤ t.rspR.length) ∧
  (∀ (tok b : ByteSeq) (s t : State), tok.length = 20 → exec (.unpack tok b) s = .next t →
    t.rspStatus ≠ Status.ok.code)

/-- With HEX_ACCEPT_UPPER an upper-case digit decodes like its lower-case one, so a token whose digits differ in case
alone gives the same response; without it a token with an upper-case digit is BadEncoding (R12, R66, R123). -/
def Obligations.UpperCaseDigitsFollowTheParameter : Prop :=
  (∀ (tok tok' : ByteSeq) (s t v : State), s.par.hexAcceptUpper = true → tok.head? = tok'.head? →
    List.Forall₂ (fun c d : Byte => c = d ∨ (0x61 ≤ c.toNat ∧ c.toNat ≤ 0x66 ∧ d.toNat = c.toNat - 0x20))
      tok.tail tok'.tail →
    exec (.unpack tok []) s = .next t → exec (.unpack tok' []) s = .next v →
    t.rspStatus = v.rspStatus ∧ t.rspR = v.rspR) ∧
  (∀ (tok : ByteSeq) (s : State), s.par.hexAcceptUpper = false → s.par.Within tok.length → 20 ≤ tok.length →
    tok.head? = some 0x40#8 → (∃ c ∈ tok.tail, 0x41 ≤ c.toNat ∧ c.toNat ≤ 0x46) →
    exec (.unpack tok []) s = .next (s.complete .badEncoding []))

/-- The leaf commands compose to PACK: the marker, the hex of CSUM's byte, and the hex of XFORM's result under DERIVE's
key (R70, R122; program P2 of 95_test_vectors.md). -/
def Obligations.LeafCommandsComposeToPack : Prop :=
  ∀ (a : ByteSeq) (s : State), a ≠ [] → s.par.Within a.length → ∃ s1 s2 s3 s4 : State,
    exec (.csum a []) s = .next s1 ∧ exec (.derive [s1.rspR.headD 0#8] []) s1 = .next s2 ∧
    exec (.xform s2.rspR a) s2 = .next s3 ∧ exec (.pack a []) s3 = .next s4 ∧
    s1.rspStatus = Status.ok.code ∧ s2.rspStatus = Status.ok.code ∧ s3.rspStatus = Status.ok.code ∧
    s4.rspStatus = Status.ok.code ∧
    s4.rspR = 0x40#8 :: (Reference.hex s1.rspR ++ Reference.hex s3.rspR)

/-! ## The host's command stream (30_encoding.md R69, R70) -/

/-- `ENCRYPT k, d` then `DECRYPT k, $R` gives the data back (R70, R104; program P4; how a host runs lines
is log 15). -/
def Obligations.DecryptUndoesEncrypt : Prop :=
  ∀ (k d : ByteSeq) (s : State), s.Ready → k.length = 13 → s.par.Within d.length → d.length < 2 ^ 32 →
    ∃ (x : ByteSeq) (t : State),
      runLines ((SourceLine.encrypt (.bytes k) (.bytes d)).expand ++ (SourceLine.decrypt (.bytes k) .result).expand) [] s =
        some ([(Status.ok.code, x), (Status.ok.code, d)], t)

/-- `KEYOF a` gives the key that PACK uses for `a`, and `ROUNDTRIP a` gives the address back (R70, R125;
how a host runs lines is log 15). -/
def Obligations.PseudoCommandsKeyofAndRoundtrip : Prop :=
  (∀ (a : ByteSeq) (s : State), s.Ready → s.par.Within a.length → a.length < 2 ^ 32 → ∃ t : State,
    runLines (SourceLine.keyof (.bytes a)).expand [] s =
      some ([(Status.ok.code, [Reference.checksum a]),
        (Status.ok.code, Reference.key s.par (Reference.checksum a))], t)) ∧
  (∀ (a : ByteSeq) (s : State), s.Ready → 9 ≤ a.length → s.par.Within (3 + 2 * a.length) →
    3 + 2 * a.length < 2 ^ 32 → ∃ (x : ByteSeq) (t : State),
    runLines (SourceLine.roundtrip (.bytes a)).expand [] s =
      some ([(Status.ok.code, x), (Status.ok.code, a)], t))

/-! ## Invariants, status register, timing -/

/-- Every step keeps the invariant: an IDLE block holds no request, a BUSY one exactly one, RSP_STATUS a legal value, an
error's result is empty, the buffers are within MAX_LEN, and a block under reset is IDLE with nothing to read (R22, R29, R31,
R60, R64, R170, R173). The buffers between commands are the MODEL's (log 5), and so are RSP_STATUS, RSP_R and the buffers that
a step under reset leaves: R33 leaves them unspecified until the first response after reset, and the legal status, the empty
result and the bound on the buffers rest there on the values chosen in log 4. -/
def Obligations.StepKeepsInvariant : Prop :=
  ∀ s t : State, s.Inv → step s = .next t → t.Inv

/-- The state after reset meets the invariant, for every choice of the parameters. The values of RSP_STATUS, RSP_R
and the buffers are the MODEL's (log 4). -/
def Obligations.ResetMeetsInvariant : Prop :=
  State.reset.Inv ∧ ∀ p : Params, (State.resetWith p).Inv

/-- What the host does at the ports keeps the invariant (R21, R170). For the reset input driven high this rests on the MODEL's
choices: the values of RSP_STATUS, RSP_R and the buffers at reset (log 4), and that the assertion acts at once (log 13). -/
def Obligations.HostActsKeepInvariant : Prop :=
  ∀ (s : State) (bs : ByteSeq) (level : Bool), s.Inv →
    (s.hostSend bs).Inv ∧ s.hostTake.2.Inv ∧ (s.setReset level).Inv

/-- A block that meets the invariant stops only on a partial frame, and then is BUSY, has the front of a frame, and no
further byte to take (R60, R150, R174). -/
def Obligations.OnlyAPartialFrameStops : Prop :=
  ∀ s : State, s.Inv → (∃ t : State, step s = .next t) ∨
    (step s = .fault .partialFrame ∧ s.ctl = .busy ∧ s.rx ≠ [] ∧ parseFrame s.rx = none ∧ s.reqIn = [])

/-- The fields of RSP_STATUS: the values a status can have are exactly 0x00-0x04 and 0x10-0x12, CLASS is 0 for success
and FormatErrors and 1 for block errors, and each status has its own value (R31, R64). -/
def Obligations.StatusRegisterFields : Prop :=
  (∀ b : Byte, (∃ st : Status, st.code = b) ↔ b.toNat ≤ 4 ∨ (0x10 ≤ b.toNat ∧ b.toNat ≤ 0x12)) ∧
  (∀ st : Status, statusClass st.code = if st.isBlockError then 1#4 else 0#4) ∧
  (∀ st st' : Status, st.code = st'.code → st = st') ∧
  statusCode Status.ok.code = 0#4 ∧ statusCode Status.tooShort.code = 1#4 ∧
  statusCode Status.badPrefix.code = 2#4 ∧ statusCode Status.badEncoding.code = 3#4 ∧
  statusCode Status.checksumMismatch.code = 4#4 ∧ statusCode Status.illegalCommand.code = 0#4 ∧
  statusCode Status.badOperand.code = 1#4 ∧ statusCode Status.overlength.code = 2#4

/-- Each command runs fewer than `600 + 6 * (len(A) + len(B))` loop iterations of its pseudocode (R176), as the model's
own count tells them (log 17). -/
def Obligations.LoopIterationsAreBounded : Prop :=
  ∀ (p : Params) (a b : ByteSeq) (w : Work),
    (csumReply p a b w).work.iters < w.iters + 600 + 6 * (a.length + b.length) ∧
    (deriveReply p a b w).work.iters < w.iters + 600 + 6 * (a.length + b.length) ∧
    (xformReply p a b w).work.iters < w.iters + 600 + 6 * (a.length + b.length) ∧
    (packReply p a b w).work.iters < w.iters + 600 + 6 * (a.length + b.length) ∧
    (unpackReply p a b w).work.iters < w.iters + 600 + 6 * (a.length + b.length)

/-- The registers where a rule ends well: after CSUM ACC holds the sum; after DERIVE KEY holds the key derived from A[0];
after XFORM KEY holds operand A and OUT the result; after PACK SUMB holds the sum, KEY the key derived from it, CT the
ciphertext and OUT the hex digits; after UNPACK SUMB is the payload's first byte, KEY derived from it, CT the rest, and PT
the plaintext (R24, R25, R26, R29, R67, R90, R103, R122, R123). -/
def Obligations.RuleEndRegisters : Prop :=
  (∀ (p : Params) (a b : ByteSeq) (w : Work), (csumReply p a b w).status = .ok →
    (csumReply p a b w).work.acc = Reference.checksum a) ∧
  (∀ (p : Params) (a b : ByteSeq) (w : Work), (deriveReply p a b w).status = .ok →
    (deriveReply p a b w).work.key.toList = Reference.key p (a.headD 0#8)) ∧
  (∀ (p : Params) (a b : ByteSeq) (w : Work), (xformReply p a b w).status = .ok →
    (xformReply p a b w).work.key.toList = a ∧
    (xformReply p a b w).work.out = List.zipWith (· ^^^ ·) b (Reference.keystream a b.length) ∧
    (xformReply p a b w).result = (xformReply p a b w).work.out) ∧
  (∀ (p : Params) (a b : ByteSeq) (w : Work), (packReply p a b w).status = .ok →
    (packReply p a b w).work.sumb = Reference.checksum a ∧
    (packReply p a b w).work.key.toList = Reference.key p (Reference.checksum a) ∧
    (packReply p a b w).work.ct = Reference.transform (Reference.key p (Reference.checksum a)) a ∧
    (packReply p a b w).result = 0x40#8 :: (packReply p a b w).work.out) ∧
  (∀ (p : Params) (a b : ByteSeq) (w : Work), (unpackReply p a b w).status = .ok →
    Reference.unhex p.hexAcceptUpper a.tail = some (unpackReply p a b w).work.pay ∧
    (unpackReply p a b w).work.pay = (unpackReply p a b w).work.sumb :: (unpackReply p a b w).work.ct ∧
    (unpackReply p a b w).work.key.toList = Reference.key p (unpackReply p a b w).work.sumb ∧
    (unpackReply p a b w).work.pt = (unpackReply p a b w).result ∧
    (unpackReply p a b w).work.acc = (unpackReply p a b w).work.sumb)
end

