-- ==== Sys2Proof/Laws/State.lean ====
section
/-!
SUPPORT. One lemma per field per update of State and Work, so that no proof unfolds a record update.
-/

namespace Sys2Proof.Machine

/-! ## Completion -/

section Complete

variable (st : Status) (r : ByteSeq) (s : State)

@[simp] theorem complete_par : (s.complete st r).par = s.par := rfl
@[simp] theorem complete_rst : (s.complete st r).rst = s.rst := rfl
@[simp] theorem complete_ctl : (s.complete st r).ctl = .idle := rfl
@[simp] theorem complete_latch : (s.complete st r).latch = none := rfl
@[simp] theorem complete_work : (s.complete st r).work = Work.unspecified s.par s.draw := rfl
@[simp] theorem complete_rspStatus : (s.complete st r).rspStatus = st.code := rfl
@[simp] theorem complete_rspR : (s.complete st r).rspR = r := rfl
@[simp] theorem complete_rspValid : (s.complete st r).rspValid = true := rfl
@[simp] theorem complete_reqIn : (s.complete st r).reqIn = s.reqIn := rfl
@[simp] theorem complete_rx : (s.complete st r).rx = s.rx := rfl
@[simp] theorem complete_rspOut :
    (s.complete st r).rspOut = s.rspOut ++ responseFrame st r := rfl
@[simp] theorem complete_draw : (s.complete st r).draw = s.draw + 1 := rfl

end Complete

/-! ## The host's acts -/

section Host

variable (bs : ByteSeq) (s : State)

@[simp] theorem hostSend_par : (s.hostSend bs).par = s.par := rfl
@[simp] theorem hostSend_rst : (s.hostSend bs).rst = s.rst := rfl
@[simp] theorem hostSend_ctl : (s.hostSend bs).ctl = s.ctl := rfl
@[simp] theorem hostSend_latch : (s.hostSend bs).latch = s.latch := rfl
@[simp] theorem hostSend_work : (s.hostSend bs).work = s.work := rfl
@[simp] theorem hostSend_rspStatus : (s.hostSend bs).rspStatus = s.rspStatus := rfl
@[simp] theorem hostSend_rspR : (s.hostSend bs).rspR = s.rspR := rfl
@[simp] theorem hostSend_rspValid : (s.hostSend bs).rspValid = s.rspValid := rfl
@[simp] theorem hostSend_reqIn : (s.hostSend bs).reqIn = s.reqIn ++ bs := rfl
@[simp] theorem hostSend_rx : (s.hostSend bs).rx = s.rx := rfl
@[simp] theorem hostSend_rspOut : (s.hostSend bs).rspOut = s.rspOut := rfl
@[simp] theorem hostSend_draw : (s.hostSend bs).draw = s.draw := rfl

/-- Asserting reset abandons whatever the block was doing, at once (R170). -/
@[simp] theorem setReset_high : s.setReset true = s.underReset := rfl

/-- Reset that was not asserted is not deasserted. -/
theorem setReset_low_of_low (h : s.rst = false) : s.setReset false = s := by
  rw [State.setReset, if_neg Bool.false_ne_true, if_neg (by rw [h]; exact Bool.false_ne_true)]

/-- What deasserting reset leaves: the block as reset left it, IDLE. -/
theorem setReset_low_of_high (h : s.rst = true) : s.setReset false = { s.underReset with rst := false } := by
  rw [State.setReset, if_neg Bool.false_ne_true, if_pos h]

/-- What driving reset can do, said once. -/
theorem setReset_cases (l : Bool) (s : State) :
    (l = true ∧ s.setReset l = s.underReset) ∨
    (l = false ∧ s.rst = true ∧ s.setReset l = { s.underReset with rst := false }) ∨
    (l = false ∧ s.rst = false ∧ s.setReset l = s) := by
  cases l with
  | true => exact .inl ⟨rfl, rfl⟩
  | false =>
    cases h : s.rst with
    | true => exact .inr (.inl ⟨rfl, rfl, setReset_low_of_high s h⟩)
    | false => exact .inr (.inr ⟨rfl, rfl, setReset_low_of_low s h⟩)

@[simp] theorem setReset_rst (l : Bool) : (s.setReset l).rst = l := by
  rcases setReset_cases l s with ⟨rfl, e⟩ | ⟨rfl, _, e⟩ | ⟨rfl, h, e⟩ <;> rw [e]
  · rfl
  · exact h

@[simp] theorem setReset_par (l : Bool) : (s.setReset l).par = s.par := by
  rcases setReset_cases l s with ⟨_, e⟩ | ⟨_, _, e⟩ | ⟨_, _, e⟩ <;> rw [e] <;> rfl

@[simp] theorem setReset_reqIn (l : Bool) : (s.setReset l).reqIn = s.reqIn := by
  rcases setReset_cases l s with ⟨_, e⟩ | ⟨_, _, e⟩ | ⟨_, _, e⟩ <;> rw [e] <;> rfl

@[simp] theorem setReset_rspOut (l : Bool) : (s.setReset l).rspOut = s.rspOut := by
  rcases setReset_cases l s with ⟨_, e⟩ | ⟨_, _, e⟩ | ⟨_, _, e⟩ <;> rw [e] <;> rfl

@[simp] theorem setReset_draw (l : Bool) : (s.setReset l).draw = s.draw := by
  rcases setReset_cases l s with ⟨_, e⟩ | ⟨_, _, e⟩ | ⟨_, _, e⟩ <;> rw [e] <;> rfl

@[simp] theorem hostTake_frames : s.hostTake.1 = s.rspOut := rfl
@[simp] theorem hostTake_rspOut : s.hostTake.2.rspOut = [] := rfl
@[simp] theorem hostTake_ctl : s.hostTake.2.ctl = s.ctl := rfl
@[simp] theorem hostTake_latch : s.hostTake.2.latch = s.latch := rfl
@[simp] theorem hostTake_par : s.hostTake.2.par = s.par := rfl
@[simp] theorem hostTake_rspStatus : s.hostTake.2.rspStatus = s.rspStatus := rfl
@[simp] theorem hostTake_rspR : s.hostTake.2.rspR = s.rspR := rfl

end Host

/-! ## Reset -/

section Reset

variable (p : Params) (s : State)

@[simp] theorem resetWith_par : (State.resetWith p).par = p := rfl
@[simp] theorem resetWith_rst : (State.resetWith p).rst = false := rfl
@[simp] theorem resetWith_ctl : (State.resetWith p).ctl = .idle := rfl
@[simp] theorem resetWith_latch : (State.resetWith p).latch = none := rfl
@[simp] theorem resetWith_work : (State.resetWith p).work = Work.reset := rfl
@[simp] theorem resetWith_rspStatus : (State.resetWith p).rspStatus = 0#8 := rfl
@[simp] theorem resetWith_rspR : (State.resetWith p).rspR = [] := rfl
@[simp] theorem resetWith_rspValid : (State.resetWith p).rspValid = false := rfl
@[simp] theorem resetWith_reqIn : (State.resetWith p).reqIn = [] := rfl
@[simp] theorem resetWith_rx : (State.resetWith p).rx = [] := rfl
@[simp] theorem resetWith_rspOut : (State.resetWith p).rspOut = [] := rfl
@[simp] theorem resetWith_draw : (State.resetWith p).draw = 0 := rfl

@[simp] theorem underReset_par : s.underReset.par = s.par := rfl
@[simp] theorem underReset_rst : s.underReset.rst = true := rfl
@[simp] theorem underReset_ctl : s.underReset.ctl = .idle := rfl
@[simp] theorem underReset_latch : s.underReset.latch = none := rfl
@[simp] theorem underReset_work : s.underReset.work = Work.reset := rfl
@[simp] theorem underReset_rspStatus : s.underReset.rspStatus = 0#8 := rfl
@[simp] theorem underReset_rspR : s.underReset.rspR = [] := rfl
@[simp] theorem underReset_rspValid : s.underReset.rspValid = false := rfl
@[simp] theorem underReset_reqIn : s.underReset.reqIn = s.reqIn := rfl
@[simp] theorem underReset_rx : s.underReset.rx = [] := rfl
@[simp] theorem underReset_rspOut : s.underReset.rspOut = s.rspOut := rfl
@[simp] theorem underReset_draw : s.underReset.draw = s.draw := rfl

end Reset

/-! ## Working registers -/

section Work

variable (w : Work)

@[simp] theorem tick_acc : w.tick.acc = w.acc := rfl
@[simp] theorem tick_sumb : w.tick.sumb = w.sumb := rfl
@[simp] theorem tick_key : w.tick.key = w.key := rfl
@[simp] theorem tick_sbox : w.tick.sbox = w.sbox := rfl
@[simp] theorem tick_i : w.tick.i = w.i := rfl
@[simp] theorem tick_j : w.tick.j = w.j := rfl
@[simp] theorem tick_n : w.tick.n = w.n + 1 := rfl
@[simp] theorem tick_z : w.tick.z = w.z := rfl
@[simp] theorem tick_pay : w.tick.pay = w.pay := rfl
@[simp] theorem tick_ct : w.tick.ct = w.ct := rfl
@[simp] theorem tick_pt : w.tick.pt = w.pt := rfl
@[simp] theorem tick_out : w.tick.out = w.out := rfl
@[simp] theorem tick_iters : w.tick.iters = w.iters + 1 := rfl

variable (x y v : Byte)

@[simp] theorem writeS_acc : (w.writeS x v).acc = w.acc := rfl
@[simp] theorem writeS_sumb : (w.writeS x v).sumb = w.sumb := rfl
@[simp] theorem writeS_key : (w.writeS x v).key = w.key := rfl
@[simp] theorem writeS_i : (w.writeS x v).i = w.i := rfl
@[simp] theorem writeS_j : (w.writeS x v).j = w.j := rfl
@[simp] theorem writeS_n : (w.writeS x v).n = w.n := rfl
@[simp] theorem writeS_z : (w.writeS x v).z = w.z := rfl
@[simp] theorem writeS_pay : (w.writeS x v).pay = w.pay := rfl
@[simp] theorem writeS_ct : (w.writeS x v).ct = w.ct := rfl
@[simp] theorem writeS_pt : (w.writeS x v).pt = w.pt := rfl
@[simp] theorem writeS_out : (w.writeS x v).out = w.out := rfl
@[simp] theorem writeS_iters : (w.writeS x v).iters = w.iters := rfl

@[simp] theorem swapS_acc : (w.swapS x y).acc = w.acc := rfl
@[simp] theorem swapS_sumb : (w.swapS x y).sumb = w.sumb := rfl
@[simp] theorem swapS_key : (w.swapS x y).key = w.key := rfl
@[simp] theorem swapS_i : (w.swapS x y).i = w.i := rfl
@[simp] theorem swapS_j : (w.swapS x y).j = w.j := rfl
@[simp] theorem swapS_n : (w.swapS x y).n = w.n := rfl
@[simp] theorem swapS_z : (w.swapS x y).z = w.z := rfl
@[simp] theorem swapS_pay : (w.swapS x y).pay = w.pay := rfl
@[simp] theorem swapS_ct : (w.swapS x y).ct = w.ct := rfl
@[simp] theorem swapS_pt : (w.swapS x y).pt = w.pt := rfl
@[simp] theorem swapS_out : (w.swapS x y).out = w.out := rfl
@[simp] theorem swapS_iters : (w.swapS x y).iters = w.iters := rfl

end Work

end Sys2Proof.Machine
end

