-- ==== Sys2Proof/Laws/Loops.lean ====
section
/-!
SUPPORT. What a loop over N can do: its step equations, what it leaves unchanged, where N ends, and how often it runs.
-/

namespace Sys2Proof.Machine

variable {α β : Type} (body : α → Work → Work)

@[simp] theorem forEach_nil (w : Work) : forEach body [] w = w := rfl

@[simp] theorem forEach_cons (x : α) (xs : List α) (w : Work) :
    forEach body (x :: xs) w = forEach body xs (body x w).tick := rfl

theorem forEach_append (xs ys : List α) (w : Work) :
    forEach body (xs ++ ys) w = forEach body ys (forEach body xs w) := by
  induction xs generalizing w with
  | nil => rfl
  | cons x xs ih => exact ih _

/-- A property that the body and the tick keep holds after the loop. -/
theorem forEach_keeps {P : Work → Prop} (hb : ∀ x w, P w → P (body x w)) (ht : ∀ w, P w → P w.tick) (xs : List α)
    {w : Work} (h : P w) : P (forEach body xs w) := by
  induction xs generalizing w with
  | nil => exact h
  | cons x xs ih => exact ih (ht _ (hb _ _ h))

/-- A register that neither the body nor the tick writes keeps its value over the loop. -/
theorem forEach_unchanged (get : Work → β) (hb : ∀ x w, get (body x w) = get w) (ht : ∀ w, get w.tick = get w)
    (xs : List α) (w : Work) : get (forEach body xs w) = get w := by
  induction xs generalizing w with
  | nil => rfl
  | cons x xs ih => rw [forEach_cons, ih, ht, hb]

/-- N has moved on once an iteration. -/
theorem forEach_n (hb : ∀ x w, (body x w).n = w.n) (xs : List α) (w : Work) :
    (forEach body xs w).n = w.n + xs.length := by
  induction xs generalizing w with
  | nil => rfl
  | cons x xs ih => rw [forEach_cons, ih, tick_n, hb, List.length_cons]; omega

/-- The iterations are counted. -/
theorem forEach_iters (hb : ∀ x w, (body x w).iters = w.iters) (xs : List α) (w : Work) :
    (forEach body xs w).iters = w.iters + xs.length := by
  induction xs generalizing w with
  | nil => rfl
  | cons x xs ih => rw [forEach_cons, ih, tick_iters, hb, List.length_cons]; omega

/-- The scan answers whether every element is `ok`. -/
theorem scanAll_fst (ok : α → Bool) (xs : List α) (w : Work) : (scanAll ok xs w).1 = xs.all ok := by
  induction xs generalizing w with
  | nil => rfl
  | cons x xs ih =>
    rw [scanAll, List.all_cons]
    split
    · next h => rw [ih, h, Bool.true_and]
    · next h => simp only [Bool.not_eq_true] at h; rw [h, Bool.false_and]

/-- A register that the tick does not write keeps its value over the scan. -/
theorem scanAll_unchanged (ok : α → Bool) (get : Work → β) (ht : ∀ w, get w.tick = get w) (xs : List α) (w : Work) :
    get (scanAll ok xs w).2 = get w := by
  induction xs generalizing w with
  | nil => rfl
  | cons x xs ih =>
    rw [scanAll]
    split
    · rw [ih, ht]
    · exact ht w

/-- The scan runs at most once an element. -/
theorem scanAll_iters_le (ok : α → Bool) (xs : List α) (w : Work) :
    (scanAll ok xs w).2.iters ≤ w.iters + xs.length := by
  induction xs generalizing w with
  | nil => exact Nat.le_refl _
  | cons x xs ih =>
    rw [scanAll, List.length_cons]
    split
    · have := ih w.tick
      rw [tick_iters] at this
      omega
    · rw [tick_iters]; omega

end Sys2Proof.Machine
end

