-- ==== Sys2Proof/Laws/Checksum.lean ====
section
/-!
SUPPORT. What the checksum step leaves in every register, and the laws of the sum (40_checksum.md R81, R82).
-/

namespace Sys2Proof.Reference

@[simp] theorem checksum_nil : checksum [] = 0#8 := rfl

@[simp] theorem checksum_cons (b : Byte) (x : ByteSeq) : checksum (b :: x) = b + checksum x := by
  simp [checksum, BitVec.ofNat_add]

theorem checksum_append (x y : ByteSeq) : checksum (x ++ y) = checksum x + checksum y := by
  induction x with
  | nil => simp
  | cons b x ih => rw [List.cons_append, checksum_cons, ih, checksum_cons, BitVec.add_assoc]

theorem checksum_perm {x y : ByteSeq} (h : x.Perm y) : checksum x = checksum y := by
  rw [checksum, checksum, (h.map BitVec.toNat).sum_eq]

/-- Replacing one byte moves the sum by the difference. -/
theorem checksum_set (x : ByteSeq) (k : Nat) (b : Byte) (h : k < x.length) :
    checksum (x.set k b) + x[k] = checksum x + b := by
  induction x generalizing k with
  | nil => exact absurd h (Nat.not_lt_zero _)
  | cons c x ih =>
    cases k with
    | zero => simp only [List.set_cons_zero, checksum_cons, List.getElem_cons_zero]; ac_rfl
    | succ k =>
      have := ih k (Nat.lt_of_succ_lt_succ h)
      simp only [List.set_cons_succ, checksum_cons, List.getElem_cons_succ, BitVec.add_assoc, this]

end Sys2Proof.Reference

namespace Sys2Proof.Machine

/-- The checksum loop from any ACC and N. -/
theorem checksum_loop (x : ByteSeq) (w : Work) :
    forEach (fun (b : Byte) (w : Work) => { w with acc := w.acc + b }) x w =
      { w with acc := w.acc + Reference.checksum x, n := w.n + x.length, iters := w.iters + x.length } := by
  induction x generalizing w with
  | nil => simp
  | cons b x ih =>
    rw [forEach_cons, ih]
    simp [Work.tick, BitVec.add_assoc, Nat.add_assoc, Nat.add_comm 1]

/-- The whole effect of the checksum step: it writes ACC and N alone (R24, R81). -/
theorem checksum_eq (x : ByteSeq) (w : Work) :
    w.checksum x =
      { w with acc := Reference.checksum x, n := x.length, iters := w.iters + x.length } := by
  rw [Work.checksum, checksum_loop]
  simp

end Sys2Proof.Machine
end

