-- ==== Sys2Proof/Laws/Cipher.lean ====
section
/-!
SUPPORT. The stream cipher: S as the function its reads are, the registers the two RC4 passes and the transform leave,
and the laws of the keystream (42_stream_cipher.md R100 to R105).
-/

namespace Sys2Proof.Reference

theorem stream_length (n : Nat) (s : Byte → Byte) (i j : Byte) : (stream n s i j).length = n := by
  induction n generalizing s i j with
  | zero => rfl
  | succ n ih => simp [stream, ih]

@[simp] theorem keystream_length (k : ByteSeq) (n : Nat) : (keystream k n).length = n :=
  stream_length _ _ _ _

/-- A shorter stream is the start of a longer one. -/
theorem stream_take (m n : Nat) (s : Byte → Byte) (i j : Byte) :
    (stream (m + n) s i j).take m = stream m s i j := by
  induction m generalizing s i j with
  | zero => simp [stream]
  | succ m ih => rw [Nat.add_right_comm]; simp [stream, ih]

theorem keystream_take (k : ByteSeq) (m n : Nat) : (keystream k (m + n)).take m = keystream k m :=
  stream_take m n _ _ _

@[simp] theorem transform_length (k d : ByteSeq) : (transform k d).length = d.length := by
  simp [transform]

@[simp] theorem transform_nil (k : ByteSeq) : transform k [] = [] := rfl

theorem zipWith_xor_xor (d z : ByteSeq) (h : d.length ≤ z.length) :
    List.zipWith (· ^^^ ·) (List.zipWith (· ^^^ ·) d z) z = d := by
  induction d generalizing z with
  | nil => rfl
  | cons b d ih =>
    cases z with
    | nil => exact absurd h (by simp)
    | cons y z =>
      simp only [List.zipWith_cons_cons, ih z (Nat.le_of_succ_le_succ h), BitVec.xor_assoc, BitVec.xor_self,
        BitVec.xor_zero]

/-- The transform undoes itself (R104). -/
theorem transform_transform (k d : ByteSeq) : transform k (transform k d) = d := by
  rw [transform, transform_length, transform]
  exact zipWith_xor_xor d _ (by simp)

/-- One byte of the transform: the data byte xor the keystream byte. -/
theorem transform_getElem (k d : ByteSeq) (n : Nat) (h : n < (transform k d).length) :
    (transform k d)[n] =
      d[n]'(by simpa using h) ^^^ (keystream k d.length)[n]'(by simpa using h) := by
  simp [transform]

/-- Replacing a data byte replaces one byte of the transform. -/
theorem transform_set (k d : ByteSeq) (n : Nat) (b : Byte) (h : n < d.length) :
    transform k (d.set n b) =
      (transform k d).set n (b ^^^ (keystream k d.length)[n]'(by simpa using h)) := by
  apply List.ext_getElem
  · simp
  · intro m h1 h2
    rw [transform_getElem]
    simp only [List.length_set, List.getElem_set, transform_getElem]
    split
    · next e => subst e; rfl
    · rfl

/-! ## Permutations -/

/-- An exchange of two values keeps a permutation one (R27). -/
theorem swap_bijective (s : Byte → Byte) (x y : Byte) (h : Function.Bijective s) : Function.Bijective (swap s x y) := by
  have e : swap s x y = s ∘ Equiv.swap x y := by
    funext z
    simp only [swap, Function.comp, Equiv.swap_apply_def]
    split
    · rfl
    · split <;> rfl
  rw [e]
  exact h.comp (Equiv.bijective _)

/-- The key schedule keeps S a permutation (R27, R100). -/
theorem schedule_bijective (k : ByteSeq) (n : Nat) : Function.Bijective (schedule k n).1 := by
  induction n with
  | zero => exact Function.bijective_id
  | succ n ih => exact swap_bijective _ _ _ ih

end Sys2Proof.Reference

namespace Sys2Proof.Machine

/-! ## S as the function of its reads -/

theorem readS_writeS (w : Work) (x y v : Byte) : (w.writeS x v).readS y = if y = x then v else w.readS y := by
  unfold Work.readS Work.writeS
  rw [Vector.getElem_set]
  by_cases h : y = x
  · subst h; simp
  · rw [if_neg h, if_neg (fun e => h (BitVec.eq_of_toNat_eq e.symm))]

/-- A swap exchanges the two entries and keeps every other (R100). -/
theorem readS_swapS (w : Work) (x y : Byte) : (w.swapS x y).readS = Reference.swap w.readS x y := by
  funext z
  simp only [Work.swapS, readS_writeS, Reference.swap]
  by_cases hx : z = x <;> by_cases hy : z = y <;> simp_all

@[simp] theorem readS_tick (w : Work) : w.tick.readS = w.readS := rfl

/-- Two work records with the same S read the same. -/
theorem readS_congr {w w' : Work} (h : w.sbox = w'.sbox) : w.readS = w'.readS := by
  unfold Work.readS
  rw [h]

/-- Two vectors that read the same are equal. -/
theorem sbox_ext {w w' : Work} (h : w.readS = w'.readS) : w.sbox = w'.sbox := by
  apply Vector.ext
  intro k hk
  have := congrFun h (BitVec.ofNat 8 k)
  simpa [Work.readS, Nat.mod_eq_of_lt hk] using this

/-! ## Key scheduling -/

theorem initS_loop (n d : Nat) (hn : n + d ≤ 256) (w : Work) (y : Byte) :
    (forEach (fun k w => w.writeS (BitVec.ofNat 8 k) (BitVec.ofNat 8 k)) (List.range' n d) w).readS y =
      if n ≤ y.toNat ∧ y.toNat < n + d then y else w.readS y := by
  induction d generalizing n w with
  | zero => rw [if_neg (by omega)]; rfl
  | succ d ih =>
    rw [List.range'_succ, forEach_cons, ih (n + 1) (by omega), readS_tick, readS_writeS]
    by_cases he : y = BitVec.ofNat 8 n
    · subst he
      have hn' : (BitVec.ofNat 8 n).toNat = n := by
        rw [BitVec.toNat_ofNat]; exact Nat.mod_eq_of_lt (by omega)
      rw [hn', if_neg (by omega), if_pos rfl, if_pos (by omega)]
    · have : y.toNat ≠ n := fun e => he (by rw [← e, BitVec.ofNat_toNat, BitVec.setWidth_eq])
      rw [if_neg he]
      by_cases hc : n ≤ y.toNat ∧ y.toNat < n + (d + 1)
      · rw [if_pos hc, if_pos (by omega)]
      · rw [if_neg hc, if_neg (by omega)]

/-- After the first loop of KSA every entry is its index (R100). -/
theorem readS_initS (w : Work) : w.initS.readS = id := by
  funext y
  have hy : y.toNat < 0 + 256 := Nat.lt_of_lt_of_eq y.isLt rfl
  rw [Work.initS, List.range_eq_range', initS_loop 0 sboxSize (by decide) (w.startAt 0) y, if_pos ⟨Nat.zero_le _, hy⟩]
  rfl

theorem initS_regs (w : Work) : w.initS = { w with sbox := w.initS.sbox, n := 256, iters := w.iters + 256 } := by
  have hn := forEach_n (fun k w => w.writeS (BitVec.ofNat 8 k) (BitVec.ofNat 8 k)) (fun _ _ => rfl)
    (List.range sboxSize) (w.startAt 0)
  have hi := forEach_iters (fun k w => w.writeS (BitVec.ofNat 8 k) (BitVec.ofNat 8 k)) (fun _ _ => rfl)
    (List.range sboxSize) (w.startAt 0)
  have hf := forEach_unchanged (fun k w => w.writeS (BitVec.ofNat 8 k) (BitVec.ofNat 8 k))
    (fun w => (w.acc, w.sumb, w.key, w.i, w.j, w.z, w.pay, w.ct, w.pt, w.out)) (fun _ _ => rfl) (fun _ => rfl)
    (List.range sboxSize) (w.startAt 0)
  rw [List.length_range] at hn hi
  simp only [Prod.mk.injEq] at hf
  obtain ⟨h1, h2, h3, h4, h5, h6, h7, h8, h9, h10⟩ := hf
  change (forEach _ _ _).n = 0 + 256 at hn
  rw [Nat.zero_add] at hn
  unfold Work.initS
  generalize forEach _ _ _ = r at *
  cases r
  simp_all [Work.startAt]

theorem ksa_loop (key : ByteSeq) (n : Nat) (w : Work) (h : w.readS = id) (hj : w.j = 0#8) :
    (forEach (Work.ksaStep key) (List.range n) w).readS = (Reference.schedule key n).1 ∧
      (forEach (Work.ksaStep key) (List.range n) w).j = (Reference.schedule key n).2 := by
  induction n with
  | zero => exact ⟨h, hj⟩
  | succ n ih =>
    obtain ⟨hs, hk⟩ := ih
    rw [List.range_succ, forEach_append, forEach_cons, forEach_nil]
    simp only [readS_tick, tick_j, Work.ksaStep, readS_swapS, swapS_j, Reference.schedule, hk, hs]
    refine ⟨?_, trivial⟩
    rw [← hs]
    rfl

/-- S after the key-scheduling pass: that of the standard schedule, whatever S held before (R100). -/
theorem readS_ksa (key : ByteSeq) (w : Work) : (w.ksa key).readS = (Reference.schedule key 256).1 := by
  have h : ({ w.initS with j := 0#8 }.startAt 0).readS = id := by
    rw [readS_congr (w' := w.initS) (by rfl), readS_initS]
  exact (ksa_loop key sboxSize _ h (by rfl)).1

theorem ksaStep_regs (key : ByteSeq) (k : Nat) (w : Work) :
    Work.ksaStep key k w = { w with sbox := (Work.ksaStep key k w).sbox, j := (Work.ksaStep key k w).j } := rfl

/-- The key-scheduling pass writes S, J and N alone (R100). -/
theorem ksa_regs (key : ByteSeq) (w : Work) :
    w.ksa key = { w with sbox := (w.ksa key).sbox, j := (w.ksa key).j, n := 256, iters := w.iters + 512 } := by
  have hn := forEach_n (Work.ksaStep key) (fun _ _ => rfl) (List.range sboxSize)
    ({ w.initS with j := 0#8 }.startAt 0)
  have hi := forEach_iters (Work.ksaStep key) (fun _ _ => rfl) (List.range sboxSize)
    ({ w.initS with j := 0#8 }.startAt 0)
  have hf := forEach_unchanged (Work.ksaStep key)
    (fun w => (w.acc, w.sumb, w.key, w.i, w.z, w.pay, w.ct, w.pt, w.out)) (fun _ _ => rfl) (fun _ => rfl)
    (List.range sboxSize) ({ w.initS with j := 0#8 }.startAt 0)
  rw [List.length_range] at hn hi
  simp only [Prod.mk.injEq] at hf
  obtain ⟨h1, h2, h3, h4, h5, h6, h7, h8, h9⟩ := hf
  change (forEach _ _ _).n = 0 + 256 at hn
  change (forEach _ _ _).iters = w.initS.iters + 256 at hi
  rw [initS_regs] at hi h1 h2 h3 h4 h5 h6 h7 h8 h9
  rw [Nat.zero_add] at hn
  unfold Work.ksa
  rw [initS_regs]
  rw [initS_regs] at hn
  generalize forEach _ _ _ = r at *
  cases r
  simp_all [Work.startAt]

/-! ## Byte generation -/

theorem prga_loop (xs : List Nat) (w : Work) :
    (forEach (fun _ w => w.prgaStep) xs w).z = w.z ++ Reference.stream xs.length w.readS w.i w.j := by
  induction xs generalizing w with
  | nil => simp [Reference.stream]
  | cons x xs ih =>
    rw [forEach_cons, ih, List.length_cons, Reference.stream]
    have hs : w.prgaStep.readS = Reference.swap w.readS (w.i + 1#8) (w.j + w.readS (w.i + 1#8)) := by
      rw [← readS_swapS]
      exact readS_congr rfl
    have hz : w.prgaStep.z = w.z ++ [w.prgaStep.readS (w.prgaStep.readS (w.i + 1#8) +
        w.prgaStep.readS (w.j + w.readS (w.i + 1#8)))] := rfl
    simp only [tick_z, readS_tick, tick_i, tick_j, hz, hs]
    rw [List.append_assoc]
    rfl

/-- The keystream bytes the byte-generation pass leaves in Z (R101). -/
theorem prga_z (n : Nat) (w : Work) : (w.prga n).z = Reference.stream n w.readS 0#8 0#8 := by
  rw [Work.prga, prga_loop, List.length_range]
  rfl

/-- The byte-generation pass writes S, I, J, N and Z alone (R101). -/
theorem prga_regs (n : Nat) (w : Work) :
    w.prga n =
      { w with
        sbox := (w.prga n).sbox, i := (w.prga n).i, j := (w.prga n).j, z := (w.prga n).z, n := n
        iters := w.iters + n } := by
  have hn := forEach_n (fun (_ : Nat) w => w.prgaStep) (fun _ _ => rfl) (List.range n)
    { w with i := 0#8, j := 0#8, z := [], n := 0 }
  have hi := forEach_iters (fun (_ : Nat) w => w.prgaStep) (fun _ _ => rfl) (List.range n)
    { w with i := 0#8, j := 0#8, z := [], n := 0 }
  have hf := forEach_unchanged (fun (_ : Nat) w => w.prgaStep)
    (fun w => (w.acc, w.sumb, w.key, w.pay, w.ct, w.pt, w.out)) (fun _ _ => rfl) (fun _ => rfl)
    (List.range n) { w with i := 0#8, j := 0#8, z := [], n := 0 }
  rw [List.length_range] at hn hi
  simp only [Prod.mk.injEq, Nat.zero_add] at hf hn hi
  obtain ⟨h1, h2, h3, h4, h5, h6, h7⟩ := hf
  unfold Work.prga
  generalize forEach _ _ _ = r at *
  cases r
  simp_all

/-! ## The transform -/

theorem xorOut_loop (ps : List (Byte × Byte)) (w : Work) :
    forEach (fun (dz : Byte × Byte) (w : Work) => { w with out := w.out ++ [dz.1 ^^^ dz.2] }) ps w =
      { w with
        out := w.out ++ ps.map (fun dz => dz.1 ^^^ dz.2), n := w.n + ps.length, iters := w.iters + ps.length } := by
  induction ps generalizing w with
  | nil => simp
  | cons p ps ih =>
    rw [forEach_cons, ih]
    simp [Work.tick, Nat.add_assoc, Nat.add_comm 1]

theorem xorOut_eq (d : ByteSeq) (w : Work) (h : w.z.length = d.length) :
    w.xorOut d = { w with out := List.zipWith (· ^^^ ·) d w.z, n := d.length, iters := w.iters + d.length } := by
  rw [Work.xorOut, xorOut_loop]
  simp [h, List.zip, List.map_zipWith]

/-- The value of the transform: the data xor the keystream of KEY (R102). -/
theorem transform_out (d : ByteSeq) (w : Work) : (w.transform d).out = Reference.transform w.key.toList d := by
  have hz : ((w.ksa w.key.toList).prga d.length).z = Reference.keystream w.key.toList d.length := by
    rw [prga_z, readS_ksa]; rfl
  rw [Work.transform, xorOut_eq d _ (by rw [hz]; simp), hz]
  rfl

/-- The transform writes S, I, J, N, Z and OUT alone (R102). -/
theorem transform_regs (d : ByteSeq) (w : Work) :
    w.transform d =
      { w with
        sbox := (w.transform d).sbox, i := (w.transform d).i, j := (w.transform d).j, z := (w.transform d).z
        out := (w.transform d).out, n := d.length, iters := w.iters + (512 + 2 * d.length) } := by
  have hz : ((w.ksa w.key.toList).prga d.length).z.length = d.length := by
    rw [prga_z, Reference.stream_length]
  unfold Work.transform
  rw [xorOut_eq d _ hz, prga_regs, ksa_regs]
  simp only [Work.mk.injEq, true_and]
  omega

@[simp] theorem transform_acc (d : ByteSeq) (w : Work) : (w.transform d).acc = w.acc :=
  (congrArg Work.acc (transform_regs d w) :)
@[simp] theorem transform_sumb (d : ByteSeq) (w : Work) : (w.transform d).sumb = w.sumb :=
  (congrArg Work.sumb (transform_regs d w) :)
@[simp] theorem transform_key (d : ByteSeq) (w : Work) : (w.transform d).key = w.key :=
  (congrArg Work.key (transform_regs d w) :)
@[simp] theorem transform_pay (d : ByteSeq) (w : Work) : (w.transform d).pay = w.pay :=
  (congrArg Work.pay (transform_regs d w) :)
@[simp] theorem transform_ct (d : ByteSeq) (w : Work) : (w.transform d).ct = w.ct :=
  (congrArg Work.ct (transform_regs d w) :)
@[simp] theorem transform_pt (d : ByteSeq) (w : Work) : (w.transform d).pt = w.pt :=
  (congrArg Work.pt (transform_regs d w) :)

/-- The transform under a derived key (R91, R102): what PACK and UNPACK apply. -/
theorem transform_out_of_key {k : ByteSeq} {w : Work} (h : w.key.toList = k) (d : ByteSeq) :
    (w.transform d).out = Reference.transform k d := by
  rw [transform_out, h]

end Sys2Proof.Machine
end

