-- ==== Sys2Proof/Laws/Derive.lean ====
section
/-!
SUPPORT. What the key register file holds after the derivation step and after XFORM loads it (R26, R67, R91).
-/

namespace Sys2Proof.Reference

open Sys2Proof.Machine

theorem key_length (p : Params) (c : Byte) : (key p c).length = 13 := by
  simp [key]

/-- The key does not depend on MAGIC[0] (R91). -/
theorem key_ignores_magic_zero (p : Params) (b c : Byte) :
    key { p with magic := p.magic.set 0 b } c = key p c := by
  obtain ⟨⟨⟨m⟩, hm⟩, h, u⟩ := p
  cases m with
  | nil => simp at hm
  | cons x m => simp [key]

end Sys2Proof.Reference

namespace Sys2Proof.Machine

/-- A loop over KEY's indices that writes the value `f k` at each index `k`. -/
theorem writeKey_loop (f : Fin 13 → Byte) (ks : List (Fin 13)) (w : Work) :
    forEach (fun k w => w.writeKey k (f k)) ks w =
      { w with
        key := ks.foldl (fun v k => v.set k.val (f k) k.isLt) w.key
        n := w.n + ks.length
        iters := w.iters + ks.length } := by
  induction ks generalizing w with
  | nil => simp
  | cons k ks ih =>
    rw [forEach_cons, ih]
    simp [Work.tick, Work.writeKey, Nat.add_assoc, Nat.add_comm 1]

/-- A vector of 13 bytes all of whose entries are written holds what was written. -/
theorem toList_of_writes (f : Fin 13 → Byte) (v : Vector Byte 13) :
    (keyIndices.foldl (fun v k => v.set k.val (f k) k.isLt) v).toList =
      [f 0, f 1, f 2, f 3, f 4, f 5, f 6, f 7, f 8, f 9, f 10, f 11, f 12] := by
  obtain ⟨⟨l⟩, h⟩ := v
  match l, h with
  | [_, _, _, _, _, _, _, _, _, _, _, _, _], _ => rfl

/-- A vector is the list of its reads. -/
theorem toList_of_reads (v : Vector Byte 13) :
    v.toList = [v[0], v[1], v[2], v[3], v[4], v[5], v[6], v[7], v[8], v[9], v[10], v[11], v[12]] := by
  obtain ⟨⟨l⟩, h⟩ := v
  match l, h with
  | [_, _, _, _, _, _, _, _, _, _, _, _, _], _ => rfl

theorem deriveKey_regs (p : Params) (c : Byte) (w : Work) :
    w.deriveKey p c = { w with key := (w.deriveKey p c).key, n := 13, iters := w.iters + 12 } := by
  rw [Work.deriveKey, writeKey_loop]
  simp [Work.writeKey, Work.startAt, keyIndices]

/-- KEY after the derivation step (R91). -/
theorem deriveKey_key (p : Params) (c : Byte) (w : Work) : (w.deriveKey p c).key.toList = Reference.key p c := by
  have h := toList_of_writes (fun k => if k = 0 then c else magicAt p k) w.key
  rw [Work.deriveKey, writeKey_loop, Reference.key, toList_of_reads p.magic]
  exact h

/-- KEY after XFORM has loaded a 13-byte operand: the operand (R67). -/
theorem loadKey_key (a : ByteSeq) (h : a.length = 13) (w : Work) : (w.loadKey a).key.toList = a := by
  rw [Work.loadKey, writeKey_loop]
  exact (toList_of_writes (fun k => a.getD k.val 0#8) w.key).trans (by
    match a, h with
    | [_, _, _, _, _, _, _, _, _, _, _, _, _], _ => rfl)

theorem loadKey_regs (a : ByteSeq) (w : Work) :
    w.loadKey a = { w with key := (w.loadKey a).key, n := 13, iters := w.iters + 13 } := by
  rw [Work.loadKey, writeKey_loop]
  simp [Work.startAt, keyIndices]

@[simp] theorem deriveKey_acc (p : Params) (c : Byte) (w : Work) : (w.deriveKey p c).acc = w.acc :=
  (congrArg Work.acc (deriveKey_regs p c w) :)
@[simp] theorem deriveKey_sumb (p : Params) (c : Byte) (w : Work) : (w.deriveKey p c).sumb = w.sumb :=
  (congrArg Work.sumb (deriveKey_regs p c w) :)
@[simp] theorem deriveKey_sbox (p : Params) (c : Byte) (w : Work) : (w.deriveKey p c).sbox = w.sbox :=
  (congrArg Work.sbox (deriveKey_regs p c w) :)
@[simp] theorem deriveKey_i (p : Params) (c : Byte) (w : Work) : (w.deriveKey p c).i = w.i :=
  (congrArg Work.i (deriveKey_regs p c w) :)
@[simp] theorem deriveKey_j (p : Params) (c : Byte) (w : Work) : (w.deriveKey p c).j = w.j :=
  (congrArg Work.j (deriveKey_regs p c w) :)
@[simp] theorem deriveKey_z (p : Params) (c : Byte) (w : Work) : (w.deriveKey p c).z = w.z :=
  (congrArg Work.z (deriveKey_regs p c w) :)
@[simp] theorem deriveKey_pay (p : Params) (c : Byte) (w : Work) : (w.deriveKey p c).pay = w.pay :=
  (congrArg Work.pay (deriveKey_regs p c w) :)
@[simp] theorem deriveKey_ct (p : Params) (c : Byte) (w : Work) : (w.deriveKey p c).ct = w.ct :=
  (congrArg Work.ct (deriveKey_regs p c w) :)
@[simp] theorem deriveKey_pt (p : Params) (c : Byte) (w : Work) : (w.deriveKey p c).pt = w.pt :=
  (congrArg Work.pt (deriveKey_regs p c w) :)
@[simp] theorem deriveKey_out (p : Params) (c : Byte) (w : Work) : (w.deriveKey p c).out = w.out :=
  (congrArg Work.out (deriveKey_regs p c w) :)

end Sys2Proof.Machine
end

