-- ==== Sys2Proof/Laws/Codec.lean ====
section
/-!
SUPPORT. Hex conversion, and what the rule of each command replies (30_encoding.md R66; 43_codec.md R120 to R124).
-/

namespace Sys2Proof.Reference

open Sys2Proof.Machine

/-! ## Hex -/

@[simp] theorem hex_nil : hex [] = [] := rfl

@[simp] theorem hex_cons (b : Byte) (x : ByteSeq) : hex (b :: x) = hexByte b ++ hex x := by
  simp [hex]

@[simp] theorem hexByte_length (b : Byte) : (hexByte b).length = 2 := rfl

theorem hex_length (x : ByteSeq) : (hex x).length = 2 * x.length := by
  induction x with
  | nil => rfl
  | cons b x ih => rw [hex_cons, List.length_append, ih, hexByte_length, List.length_cons]; omega

/-- A digit's value is the digit's place in the alphabet. -/
theorem digitValue_eq (p : Params) (c : Byte) :
    digitValue p.hexAcceptUpper c = if isHexDigit p c = true then some (hexVal c).toNat else none := by
  obtain ⟨m, h, u⟩ := p
  have key : ∀ (u : Bool) (c : Byte), digitValue u c =
      if (isDecimalDigit c || isLowerDigit c || (u && isUpperDigit c)) = true then some (hexVal c).toNat else none := by
    decide +kernel
  exact key u c

/-- The characters of a byte read back as the byte, in either setting (R121). -/
theorem hexByte_value (u : Bool) (b : Byte) : ∃ vh vl : Nat, ∃ h l : Byte,
    hexByte b = [h, l] ∧ digitValue u h = some vh ∧ digitValue u l = some vl ∧ BitVec.ofNat 8 (16 * vh + vl) = b := by
  have key : ∀ (u : Bool) (b : Byte),
      digitValue u (lowerDigits.getD (b.toNat / 16) 0#8) = some (b.toNat / 16) ∧
      digitValue u (lowerDigits.getD (b.toNat % 16) 0#8) = some (b.toNat % 16) ∧
      BitVec.ofNat 8 (16 * (b.toNat / 16) + b.toNat % 16) = b := by
    decide +kernel
  exact ⟨_, _, _, _, rfl, (key u b).1, (key u b).2.1, (key u b).2.2⟩

/-- Decoding what was encoded (R121). -/
theorem unhex_hex (u : Bool) (x : ByteSeq) : unhex u (hex x) = some x := by
  induction x with
  | nil => rfl
  | cons b x ih =>
    obtain ⟨vh, vl, h, l, hb, hh, hl, hv⟩ := hexByte_value u b
    rw [hex_cons, hb]
    simp [unhex, hh, hl, ih, hv]

/-- `unhex` succeeds on an even number of digits alone, and its bytes are the values of the digit pairs. -/
theorem unhex_eq (p : Params) (h : ByteSeq) :
    unhex p.hexAcceptUpper h =
      if h.length % 2 = 0 ∧ h.all (isHexDigit p) = true then
        some ((digitPairs h).map fun d => 16#8 * hexVal d.1 + hexVal d.2)
      else none := by
  match h with
  | [] => rfl
  | [_] => rfl
  | a :: b :: rest =>
    have ih := unhex_eq p rest
    simp only [unhex, ih, digitValue_eq, List.length_cons, List.all_cons, digitPairs, List.map_cons]
    rw [show (rest.length + 1 + 1) % 2 = rest.length % 2 by omega]
    have hv : ∀ c : Byte, BitVec.ofNat 8 (hexVal c).toNat = hexVal c := fun c => by
      rw [BitVec.ofNat_toNat, BitVec.setWidth_eq]
    by_cases ha : isHexDigit p a = true
    · by_cases hb : isHexDigit p b = true
      · by_cases hr : rest.length % 2 = 0 ∧ rest.all (isHexDigit p) = true
        · simp [ha, hb, hr.1, hr.2, BitVec.ofNat_add, BitVec.ofNat_mul, hv]
        · simp only [ha, hb, hr, if_true, if_false, Bool.true_and]
      · simp [ha, hb]
    · simp [ha]

theorem unhex_length (u : Bool) (h x : ByteSeq) (hx : unhex u h = some x) : h.length = 2 * x.length := by
  match h, x, hx with
  | [], _, hx => cases hx; rfl
  | a :: b :: rest, x, hx =>
    rw [unhex] at hx
    split at hx
    · next vh vl bs _ _ hr =>
      cases hx
      have := unhex_length u rest bs hr
      simp only [List.length_cons]
      omega
    · cases hx

/-- `unhex` fails exactly on an odd count or on a byte that is no digit (R121). -/
theorem unhex_none_iff (p : Params) (h : ByteSeq) :
    unhex p.hexAcceptUpper h = none ↔ h.length % 2 = 1 ∨ ∃ c ∈ h, isHexDigit p c = false := by
  rw [unhex_eq]
  constructor
  · intro e
    split at e
    · cases e
    · next hn =>
      by_contra hh
      simp only [not_or, not_exists, not_and, Bool.not_eq_false] at hh
      exact hn ⟨by omega, List.all_eq_true.mpr hh.2⟩
  · rintro (e | ⟨c, hc, e⟩)
    · rw [if_neg (by omega)]
    · rw [if_neg]
      rintro ⟨_, ha⟩
      rw [List.all_eq_true.mp ha c hc] at e
      cases e

/-! ## The validator, stage by stage -/

section Validate

variable (p : Params) {t : ByteSeq}

theorem validate_short (h : t.length < 20) : validate p t = (.tooShort, []) := by
  rw [validate, if_pos h]

theorem validate_prefix (h : 20 ≤ t.length) (hm : t.head? ≠ some 0x40#8) : validate p t = (.badPrefix, []) := by
  rw [validate, if_neg (Nat.not_lt.mpr h), if_pos hm]

theorem validate_encoding (h : 20 ≤ t.length) (hm : t.head? = some 0x40#8)
    (hx : unhex p.hexAcceptUpper t.tail = none) : validate p t = (.badEncoding, []) := by
  rw [validate, if_neg (Nat.not_lt.mpr h), if_neg (not_not.mpr hm), hx]

theorem validate_payload (h : 20 ≤ t.length) (hm : t.head? = some 0x40#8) {c : Byte} {ct : ByteSeq}
    (hx : unhex p.hexAcceptUpper t.tail = some (c :: ct)) :
    validate p t =
      if checksum (transform (key p c) ct) = c then (.ok, transform (key p c) ct) else (.checksumMismatch, []) := by
  rw [validate, if_neg (Nat.not_lt.mpr h), if_neg (not_not.mpr hm), hx]
  rfl

/-- A token that passes stages 1 to 3 has a payload of at least 10 bytes. -/
theorem payload_of_digits (h : 20 ≤ t.length) {x : ByteSeq} (hx : unhex p.hexAcceptUpper t.tail = some x) :
    ∃ c ct, x = c :: ct ∧ t.length = 3 + 2 * ct.length := by
  have hl := unhex_length _ _ _ hx
  rw [List.length_tail] at hl
  cases x with
  | nil => rw [List.length_nil] at hl; omega
  | cons c ct => exact ⟨c, ct, rfl, by rw [List.length_cons] at hl; omega⟩

/-- Every outcome of the validator: one of the three early errors, or what the payload gives. -/
theorem validate_cases (t : ByteSeq) :
    (t.length < 20 ∧ validate p t = (.tooShort, [])) ∨
    (20 ≤ t.length ∧ t.head? ≠ some 0x40#8 ∧ validate p t = (.badPrefix, [])) ∨
    (20 ≤ t.length ∧ t.head? = some 0x40#8 ∧ unhex p.hexAcceptUpper t.tail = none ∧
      validate p t = (.badEncoding, [])) ∨
    (∃ c ct, 20 ≤ t.length ∧ t.head? = some 0x40#8 ∧ unhex p.hexAcceptUpper t.tail = some (c :: ct) ∧
      t.length = 3 + 2 * ct.length ∧
      validate p t =
        if checksum (transform (key p c) ct) = c then (.ok, transform (key p c) ct) else (.checksumMismatch, [])) := by
  by_cases h : t.length < 20
  · exact .inl ⟨h, validate_short p h⟩
  · refine .inr ?_
    rw [Nat.not_lt] at h
    by_cases hm : t.head? = some 0x40#8
    · refine .inr ?_
      cases hx : unhex p.hexAcceptUpper t.tail with
      | none => exact .inl ⟨h, hm, rfl, validate_encoding p h hm hx⟩
      | some x =>
        obtain ⟨c, ct, rfl, hl⟩ := payload_of_digits p h hx
        exact .inr ⟨c, ct, h, hm, rfl, hl, validate_payload p h hm hx⟩
    · exact .inl ⟨h, hm, validate_prefix p h hm⟩

end Validate

theorem token_length (p : Params) (a : ByteSeq) : (token p a).length = 3 + 2 * a.length := by
  rw [token, List.length_cons, hex_length, List.length_cons, transform_length]
  omega

/-- The outcome on a token made of any sum byte and any plaintext of 9 bytes or more (R104, R123). -/
theorem validate_made (p : Params) (c : Byte) (plain : ByteSeq) (h : 9 ≤ plain.length) :
    validate p (marker :: hex (c :: transform (key p c) plain)) =
      if checksum plain = c then (.ok, plain) else (.checksumMismatch, []) := by
  have hl : 20 ≤ (marker :: hex (c :: transform (key p c) plain)).length := by
    rw [List.length_cons, hex_length, List.length_cons, transform_length]
    omega
  rw [validate_payload p hl rfl (unhex_hex _ _), transform_transform]

/-- The token of 9 bytes or more validates to them (R125). -/
theorem validate_token (p : Params) (a : ByteSeq) (h : 9 ≤ a.length) : validate p (token p a) = (.ok, a) := by
  rw [token, validate_made p _ a h, if_pos rfl]

end Sys2Proof.Reference

namespace Sys2Proof.Machine

open Sys2Proof

/-! ## Hex conversion by registers -/

theorem hexChar_nibbles (b : Byte) : [hexChar (highNibble b), hexChar (lowNibble b)] = Reference.hexByte b := by
  have key : ∀ b : Byte, [hexChar (highNibble b), hexChar (lowNibble b)] = Reference.hexByte b := by decide +kernel
  exact key b

theorem hexEncode_loop (x : ByteSeq) (w : Work) :
    forEach (fun (b : Byte) (w : Work) => { w with out := w.out ++ [hexChar (highNibble b), hexChar (lowNibble b)] }) x w =
      { w with out := w.out ++ Reference.hex x, n := w.n + x.length, iters := w.iters + x.length } := by
  induction x generalizing w with
  | nil => simp
  | cons b x ih =>
    rw [forEach_cons, ih]
    simp [Work.tick, hexChar_nibbles, Nat.add_assoc, Nat.add_comm 1]

/-- The whole effect of hex encoding (R120). -/
theorem hexEncode_eq (x : ByteSeq) (w : Work) :
    w.hexEncode x = { w with out := Reference.hex x, n := x.length, iters := w.iters + x.length } := by
  rw [Work.hexEncode, hexEncode_loop]
  simp

theorem hexDecode_loop (ds : List (Byte × Byte)) (w : Work) :
    forEach (fun (d : Byte × Byte) (w : Work) => { w with pay := w.pay ++ [16#8 * hexVal d.1 + hexVal d.2] }) ds w =
      { w with
        pay := w.pay ++ ds.map (fun d => 16#8 * hexVal d.1 + hexVal d.2), n := w.n + ds.length
        iters := w.iters + ds.length } := by
  induction ds generalizing w with
  | nil => simp
  | cons d ds ih =>
    rw [forEach_cons, ih]
    simp [Work.tick, Nat.add_assoc, Nat.add_comm 1]

/-- The whole effect of hex decoding (R121). -/
theorem hexDecode_eq (h : ByteSeq) (w : Work) :
    w.hexDecode h =
      { w with
        pay := (digitPairs h).map fun d => 16#8 * hexVal d.1 + hexVal d.2
        n := (digitPairs h).length, iters := w.iters + (digitPairs h).length } := by
  rw [Work.hexDecode, hexDecode_loop]
  simp

theorem digitPairs_length (h : ByteSeq) : (digitPairs h).length = h.length / 2 := by
  match h with
  | [] => rfl
  | [_] => simp [digitPairs]
  | _ :: _ :: rest =>
    simp only [digitPairs, List.length_cons, digitPairs_length rest]
    omega

theorem digitPairs_getElem? : ∀ (h : ByteSeq) (k : Nat), k < h.length / 2 →
    (digitPairs h)[k]? = some (h.getD (2 * k) 0#8, h.getD (2 * k + 1) 0#8)
  | [], _, hk => absurd hk (Nat.not_lt_zero _)
  | [_], _, hk => by simp at hk
  | _ :: _ :: _, 0, _ => rfl
  | _ :: _ :: r, k + 1, hk => by
    rw [digitPairs, List.getElem?_cons_succ, digitPairs_getElem? r k (by simp only [List.length_cons] at hk; omega),
      show 2 * (k + 1) + 1 = 2 * k + 1 + 1 + 1 by omega, show 2 * (k + 1) = 2 * k + 1 + 1 by omega]
    rfl

/-! ## The operand checks -/

/-- A length is over MAX_LEN exactly when it is not within it (R11, R64). -/
theorem overLength_iff (p : Params) (n : Nat) : overLength p n = true ↔ ¬ p.Within n := by
  obtain ⟨m, h, u⟩ := p
  cases h with
  | none => simp [overLength, Params.Within, Params.maxLen]
  | some h => simp [overLength, Params.Within, Params.maxLen]; omega

theorem tooLong_iff (p : Params) (a b : ByteSeq) :
    tooLong p a b = true ↔ ¬ (p.Within a.length ∧ p.Within b.length) := by
  rw [tooLong, Bool.or_eq_true, overLength_iff, overLength_iff]
  exact not_and_or.symm

/-- Lengths up to 21 are within every MAX_LEN (R11). -/
theorem within_of_le (p : Params) {n : Nat} (h : n ≤ 21) : p.Within n := by
  intro m hm
  obtain ⟨_, hr, _⟩ := p
  cases hr with
  | none => cases hm
  | some k => cases hm; change n ≤ 21 + k; omega

theorem nil_within (p : Params) : p.Within ([] : ByteSeq).length :=
  within_of_le p (Nat.zero_le _)

theorem within_mono {p : Params} {m n : Nat} (h : p.Within n) (hmn : m ≤ n) : p.Within m :=
  fun k hk => Nat.le_trans hmn (h k hk)

/-- A buffer as capped is within MAX_LEN (R29). -/
theorem capBuffer_within (p : Params) (x : ByteSeq) : p.Within (capBuffer p x).length := by
  intro m hm
  simp only [capBuffer, hm, List.length_take]
  omega

/-! ## What each rule replies -/

section Replies

variable (p : Params) (a b : ByteSeq) (w : Work)

/-- The registers where PACK's rule ends well: the result's characters in OUT, the sum in SUMB and ACC (R122). -/
theorem packReply_ok (h : tooLong p a b = false) (hs : packShape a b = true) :
    (packReply p a b w).status = .ok ∧ (packReply p a b w).result = Reference.token p a := by
  simp only [packReply, h, hs, reply]
  refine ⟨rfl, ?_⟩
  simp only [Bool.not_true, Bool.false_eq_true, if_false]
  rw [hexEncode_eq]
  simp only [transform_out, deriveKey_key, checksum_eq, Reference.token]
  rw [transform_regs, deriveKey_regs]
  rfl

/-- Stages 4 and 5 on a payload `c :: ct` (R123). -/
theorem decryptStage_eq (c : Byte) (ct : ByteSeq) (hp : w.pay = c :: ct) :
    ((decryptStage p w).status, (decryptStage p w).result) =
      if Reference.checksum (Reference.transform (Reference.key p c) ct) = c then
        (.ok, Reference.transform (Reference.key p c) ct)
      else (.checksumMismatch, []) := by
  simp only [decryptStage, verifyStage, checksum_eq, transform_out, deriveKey_key]
  rw [transform_regs, deriveKey_regs]
  simp only [hp, List.getD_cons_zero, List.drop_succ_cons, List.drop_zero]
  by_cases hc : Reference.checksum (Reference.transform (Reference.key p c) ct) = c
  · simp [hc, reply]
  · simp [hc, raiseStatus]

/-- Stages 3 to 5 on at least one pair of digits (R123). -/
theorem hexSyntaxStage_eq (h : ByteSeq) (hl : 2 ≤ h.length) :
    ((hexSyntaxStage p h w).status, (hexSyntaxStage p h w).result) =
      match Reference.unhex p.hexAcceptUpper h with
      | none => (.badEncoding, [])
      | some payload =>
        let c := payload.headD 0#8
        let plain := Reference.transform (Reference.key p c) payload.tail
        if Reference.checksum plain = c then (.ok, plain) else (.checksumMismatch, []) := by
  simp only [Reference.unhex_eq, hexSyntaxStage, scanAll_fst]
  by_cases he : h.length % 2 = 0
  · cases ha : h.all (isHexDigit p) with
    | true =>
      have hpl : (digitPairs h).map (fun d => 16#8 * hexVal d.1 + hexVal d.2) ≠ [] := by
        intro e
        have := congrArg List.length e
        rw [List.length_map, digitPairs_length, List.length_nil] at this
        omega
      obtain ⟨c, ct, hp⟩ := List.exists_cons_of_ne_nil hpl
      simp only [he, ne_eq, not_true_eq_false, if_false, if_true, and_self, hp]
      exact decryptStage_eq p _ c ct (by rw [hexDecode_eq, hp])
    | false =>
      simp [he, raiseStatus]
  · simp [he, raiseStatus]

/-- The five stages answer what the closed form says (R123, R124, R151). -/
theorem unpackStages_eq (t : ByteSeq) :
    ((unpackStages p t w).status, (unpackStages p t w).result) = Reference.validate p t := by
  rw [unpackStages, Reference.validate]
  by_cases hl : t.length < 20
  · rw [if_pos hl, if_pos hl]; rfl
  · rw [if_neg hl, if_neg hl, prefixStage]
    cases t with
    | nil => exact absurd (Nat.zero_lt_succ _) hl
    | cons x h =>
      by_cases hx : x = 0x40#8
      · rw [if_neg (by simpa using hx), if_neg (by simpa using hx)]
        exact hexSyntaxStage_eq p w h (by simp only [List.length_cons] at hl; omega)
      · rw [if_pos (by simpa using hx), if_pos (by simpa using hx)]
        rfl

end Replies

end Sys2Proof.Machine
end

