-- ==== Sys2Proof/Laws/Answers.lean ====
section
/-!
SUPPORT. The operand checks as the closed forms state them, and the answer of each command's rule (60_exceptions.md R152,
R153; 30_encoding.md R63).
-/

namespace Sys2Proof.Reference

open Sys2Proof.Machine

theorem overlong_eq (p : Params) (n : Nat) : overlong p n = overLength p n := by
  obtain ⟨m, h, u⟩ := p
  cases h with
  | none => simp [overlong, overLength, Params.maxLen]
  | some h => simp [overlong, overLength, Params.maxLen]; omega

theorem overlong_iff (p : Params) (n : Nat) : overlong p n = true ↔ ¬ p.Within n := by
  rw [overlong_eq, overLength_iff]

/-! ## The three kinds of answer (R153) -/

theorem answer_overlength {p : Params} {i : Instr} (h : ¬ (p.Within i.opA.length ∧ p.Within i.opB.length)) :
    answer p i = (.overlength, []) := by
  rw [answer, if_pos]
  rw [Bool.or_eq_true, overlong_iff, overlong_iff]
  exact not_and_or.mp h

theorem not_overlong {p : Params} {i : Instr} (ha : p.Within i.opA.length) (hb : p.Within i.opB.length) :
    ¬ (overlong p i.opA.length || overlong p i.opB.length) = true := by
  rw [Bool.or_eq_true, overlong_iff, overlong_iff]
  exact not_or.mpr ⟨not_not.mpr ha, not_not.mpr hb⟩

theorem answer_badOperand {p : Params} {i : Instr} (ha : p.Within i.opA.length) (hb : p.Within i.opB.length)
    (hr : breaksRow i = true) : answer p i = (.badOperand, []) := by
  rw [answer, if_neg (not_overlong ha hb), if_pos hr]

theorem answer_outcome {p : Params} {i : Instr} (ha : p.Within i.opA.length) (hb : p.Within i.opB.length)
    (hr : breaksRow i = false) : answer p i = outcome p i := by
  rw [answer, if_neg (not_overlong ha hb), if_neg (by rw [hr]; exact Bool.false_ne_true)]

/-- Every command answers Overlength, BadOperand or its outcome, each exactly where it should. -/
theorem answer_cases (p : Params) (i : Instr) :
    (answer p i = (.overlength, []) ∧ ¬ (p.Within i.opA.length ∧ p.Within i.opB.length)) ∨
    (answer p i = (.badOperand, []) ∧ p.Within i.opA.length ∧ p.Within i.opB.length ∧ breaksRow i = true) ∨
    (answer p i = outcome p i ∧ p.Within i.opA.length ∧ p.Within i.opB.length ∧ breaksRow i = false) := by
  by_cases h : p.Within i.opA.length ∧ p.Within i.opB.length
  · cases hb : breaksRow i with
    | true => exact .inr (.inl ⟨answer_badOperand h.1 h.2 hb, h.1, h.2, rfl⟩)
    | false => exact .inr (.inr ⟨answer_outcome h.1 h.2 hb, h.1, h.2, rfl⟩)
  · exact .inl ⟨answer_overlength h, h⟩

/-- An outcome is OK, or an error of UNPACK's with an empty result (R151). -/
theorem outcome_cases (p : Params) (i : Instr) :
    (outcome p i).1 = .ok ∨
    ((outcome p i).2 = [] ∧ (outcome p i).1.isFormatError = true ∧ ∃ a b, i = .unpack a b) := by
  cases i with
  | unpack a b =>
    simp only [outcome]
    rcases validate_cases p a with ⟨_, e⟩ | ⟨_, _, e⟩ | ⟨_, _, _, e⟩ | ⟨_, _, _, _, _, _, e⟩ <;> rw [e]
    · exact .inr ⟨rfl, rfl, _, _, rfl⟩
    · exact .inr ⟨rfl, rfl, _, _, rfl⟩
    · exact .inr ⟨rfl, rfl, _, _, rfl⟩
    · split
      · exact .inl rfl
      · exact .inr ⟨rfl, rfl, _, _, rfl⟩
  | csum _ _ => exact .inl rfl
  | derive _ _ => exact .inl rfl
  | xform _ _ => exact .inl rfl
  | pack _ _ => exact .inl rfl

end Sys2Proof.Reference

namespace Sys2Proof.Machine

open Sys2Proof

variable (p : Params) (a b : ByteSeq) (w : Work)

theorem csumShape_eq : (!csumShape a b) = Reference.breaksRow (.csum a b) := by
  cases b <;> rfl

theorem deriveShape_eq : (!deriveShape a b) = Reference.breaksRow (.derive a b) := by
  cases b <;> simp [deriveShape, Reference.breaksRow, bne, BEq.beq]

theorem xformShape_eq : (!xformShape a b) = Reference.breaksRow (.xform a b) := by
  rfl

theorem packShape_eq : (!packShape a b) = Reference.breaksRow (.pack a b) := by
  cases a <;> cases b <;> simp [packShape, Reference.breaksRow]

theorem unpackShape_eq : (!unpackShape a b) = Reference.breaksRow (.unpack a b) := by
  cases b <;> rfl

/-- What a reply answers: its status and its result. -/
def Reply.answer (rep : Reply) : Status × ByteSeq :=
  (rep.status, rep.result)

/-- The answer of a rule that checks length and shape before it runs. -/
theorem answer_of_checks (i : Instr) (long broken : Bool) (good : Reply)
    (hl : long = (Reference.overlong p i.opA.length || Reference.overlong p i.opB.length))
    (hb : broken = Reference.breaksRow i) (hg : long = false → broken = false → good.answer = Reference.outcome p i) :
    Reply.answer (if long then raiseStatus .overlength w else if broken then raiseStatus .badOperand w else good) =
      Reference.answer p i := by
  rw [Reference.answer, ← hl, ← hb]
  cases long with
  | true => rfl
  | false =>
    cases broken with
    | true => rfl
    | false => exact hg rfl rfl

theorem tooLong_eq : tooLong p a b = (Reference.overlong p a.length || Reference.overlong p b.length) := by
  rw [Reference.overlong_eq, Reference.overlong_eq, tooLong]

theorem csumReply_answer : (csumReply p a b w).answer = Reference.answer p (.csum a b) := by
  refine answer_of_checks p w (.csum a b) _ _ _ (tooLong_eq p a b) (csumShape_eq a b) ?_
  intro _ _
  rw [checksum_eq]
  rfl

theorem deriveReply_answer : (deriveReply p a b w).answer = Reference.answer p (.derive a b) := by
  refine answer_of_checks p w (.derive a b) _ _ _ (tooLong_eq p a b) (deriveShape_eq a b) ?_
  intro _ _
  simp only [Reply.answer, reply, deriveKey_key, Reference.outcome]
  cases a <;> rfl

theorem xformReply_answer : (xformReply p a b w).answer = Reference.answer p (.xform a b) := by
  refine answer_of_checks p w (.xform a b) _ _ _ (tooLong_eq p a b) (xformShape_eq a b) ?_
  intro _ h
  have ha : a.length = 13 := by simpa [xformShape] using h
  simp only [Reply.answer, reply, transform_out, loadKey_key a ha, Reference.outcome]

theorem packReply_answer : (packReply p a b w).answer = Reference.answer p (.pack a b) := by
  by_cases hl : tooLong p a b = true
  · simp [packReply, Reply.answer, hl, Reference.answer, ← tooLong_eq, Instr.opA, Instr.opB, raiseStatus]
  · simp only [Bool.not_eq_true] at hl
    by_cases hs : packShape a b = true
    · have h := packReply_ok p a b w hl hs
      rw [Reply.answer, h.1, h.2, Reference.answer]
      simp only [Instr.opA, Instr.opB, ← tooLong_eq, hl, ← packShape_eq, hs]
      rfl
    · simp only [Bool.not_eq_true] at hs
      rw [Reference.answer]
      simp only [Instr.opA, Instr.opB, ← tooLong_eq, hl, ← packShape_eq, hs]
      simp [packReply, hl, hs, Reply.answer, raiseStatus]

theorem unpackReply_answer : (unpackReply p a b w).answer = Reference.answer p (.unpack a b) := by
  refine answer_of_checks p w (.unpack a b) _ _ _ (tooLong_eq p a b) (unpackShape_eq a b) ?_
  intro _ _
  exact unpackStages_eq p w a

/-- What executing a command does, said once: it completes with what the closed forms answer. -/
theorem exec_answer (i : Instr) (s : State) :
    exec i s = .next (s.complete (Reference.answer s.par i).1 (Reference.answer s.par i).2) := by
  cases i with
  | csum a b => rw [← csumReply_answer s.par a b s.work]; rfl
  | derive a b => rw [← deriveReply_answer s.par a b s.work]; rfl
  | xform a b => rw [← xformReply_answer s.par a b s.work]; rfl
  | pack a b => rw [← packReply_answer s.par a b s.work]; rfl
  | unpack a b => rw [← unpackReply_answer s.par a b s.work]; rfl

end Sys2Proof.Machine
end

