-- ==== Sys2Proof/Laws/Decode.lean ====
section
/-!
SUPPORT. The length fields and the frame parser: each reads back what the encoder wrote, and reads nothing else
(30_encoding.md R60, R61).
-/

namespace Sys2Proof

theorem be32_lt (b3 b2 b1 b0 : Byte) : be32 b3 b2 b1 b0 < 2 ^ 32 := by
  have h3 := b3.isLt; have h2 := b2.isLt; have h1 := b1.isLt; have h0 := b0.isLt
  unfold be32
  omega

theorem be32Bytes_be32 (b3 b2 b1 b0 : Byte) : be32Bytes (be32 b3 b2 b1 b0) = [b3, b2, b1, b0] := by
  have h3 := b3.isLt; have h2 := b2.isLt; have h1 := b1.isLt; have h0 := b0.isLt
  simp only [be32Bytes, be32, List.cons.injEq, and_true]
  refine ⟨?_, ?_, ?_, ?_⟩ <;> apply BitVec.eq_of_toNat_eq <;> rw [BitVec.toNat_ofNat] <;> omega

/-- A length below 2^32 is read back. -/
theorem be32_of_bytes (n : Nat) (h : n < 2 ^ 32) :
    be32 (BitVec.ofNat 8 (n / 2 ^ 24)) (BitVec.ofNat 8 (n / 2 ^ 16)) (BitVec.ofNat 8 (n / 2 ^ 8)) (BitVec.ofNat 8 n) = n := by
  simp only [be32, BitVec.toNat_ofNat]
  omega

@[simp] theorem be32Bytes_length (n : Nat) : (be32Bytes n).length = 4 := rfl

theorem takeOperand_append (x rest : ByteSeq) (h : x.length < 2 ^ 32) :
    takeOperand (be32Bytes x.length ++ x ++ rest) = some (x, rest) := by
  simp only [be32Bytes, List.cons_append, List.nil_append, takeOperand, be32_of_bytes x.length h]
  rw [if_pos (by simp)]
  simp

/-- What `takeOperand` can answer: the operand its field announces, with what follows it. -/
theorem takeOperand_some {bs x rest : ByteSeq} (h : takeOperand bs = some (x, rest)) :
    x.length < 2 ^ 32 ∧ bs = be32Bytes x.length ++ x ++ rest := by
  unfold takeOperand at h
  split at h
  · next b3 b2 b1 b0 tail =>
    split at h
    · next hle =>
      simp only [Option.some.injEq, Prod.mk.injEq] at h
      obtain ⟨rfl, rfl⟩ := h
      rw [List.length_take, Nat.min_eq_left hle, be32Bytes_be32]
      exact ⟨be32_lt _ _ _ _, by simp⟩
    · cases h
  · cases h

theorem parseFrame_requestFrame (r : Request) (rest : ByteSeq) (h : r.wf = true) :
    parseFrame (requestFrame r ++ rest) = some (r, rest) := by
  obtain ⟨op, a, b⟩ := r
  simp only [Request.wf, lengthFits, Bool.and_eq_true, decide_eq_true_eq] at h
  simp only [requestFrame, List.cons_append, parseFrame]
  rw [show be32Bytes a.length ++ a ++ be32Bytes b.length ++ b ++ rest =
    be32Bytes a.length ++ a ++ (be32Bytes b.length ++ b ++ rest) by simp only [List.append_assoc]]
  simp only [takeOperand_append _ _ h.1, takeOperand_append _ _ h.2]

/-- What `parseFrame` can answer: the frame at the head, with what follows it. -/
theorem parseFrame_some {bs rest : ByteSeq} {r : Request} (h : parseFrame bs = some (r, rest)) :
    r.wf = true ∧ bs = requestFrame r ++ rest := by
  unfold parseFrame at h
  split at h
  · cases h
  · split at h
    · cases h
    · next tail _ a rest' ha =>
      split at h
      · cases h
      · next _ b rest'' hb =>
        simp only [Option.some.injEq, Prod.mk.injEq] at h
        obtain ⟨rfl, rfl⟩ := h
        obtain ⟨la, ea⟩ := takeOperand_some ha
        obtain ⟨lb, eb⟩ := takeOperand_some hb
        refine ⟨by simp only [Request.wf, lengthFits, Bool.and_eq_true, decide_eq_true_eq]; exact ⟨la, lb⟩, ?_⟩
        rw [ea, eb]
        simp [requestFrame, List.append_assoc]

@[simp] theorem parseFrame_nil : parseFrame [] = none := rfl

/-- A frame has its opcode, two length fields and its operands (R60). -/
theorem requestFrame_length (r : Request) : (requestFrame r).length = 9 + r.a.length + r.b.length := by
  simp [requestFrame]
  omega

theorem requestFrame_ne_nil (r : Request) : requestFrame r ≠ [] := by
  simp [requestFrame]

/-- Bytes after a complete frame stay after it (R60, R174). -/
theorem parseFrame_append {bs rest : ByteSeq} {r : Request} (h : parseFrame bs = some (r, rest)) (more : ByteSeq) :
    parseFrame (bs ++ more) = some (r, rest ++ more) := by
  obtain ⟨hw, rfl⟩ := parseFrame_some h
  rw [List.append_assoc, parseFrame_requestFrame r _ hw]

/-! ## Opcodes -/

@[simp] theorem decodeRequest_request (i : Instr) : decodeRequest i.request = some i := by
  cases i <;> rfl

theorem decodeRequest_some {r : Request} {i : Instr} (h : decodeRequest r = some i) : i.request = r := by
  obtain ⟨op, a, b⟩ := r
  unfold decodeRequest at h
  split at h
  · next e => cases h; exact congrArg (Request.mk · a b) e.symm
  · split at h
    · next e => cases h; exact congrArg (Request.mk · a b) e.symm
    · split at h
      · next e => cases h; exact congrArg (Request.mk · a b) e.symm
      · split at h
        · next e => cases h; exact congrArg (Request.mk · a b) e.symm
        · split at h
          · next e => cases h; exact congrArg (Request.mk · a b) e.symm
          · cases h

@[simp] theorem request_wf (i : Instr) : i.request.wf = i.wf := rfl

end Sys2Proof
end

