-- ==== Sys2Proof/Laws/Packed.lean ====
section
/-!
SUPPORT. RC4 over a permutation packed into one number, eight bits an entry, proved equal to the closed form of R100 to
R102: the kernel evaluates it quickly, so that the published vectors can be tests.
-/

namespace Sys2Proof.Packed

open Sys2Proof.Reference

/-- `f n`, with `n` evaluated to a numeral first. -/
def strict {α : Type} (n : Nat) (f : Nat → α) : α :=
  match n with
  | 0 => f 0
  | m + 1 => f (m + 1)

theorem strict_eq {α : Type} (n : Nat) (f : Nat → α) : strict n f = f n := by
  cases n <;> rfl

/-- The entry at `i`. -/
def entry (s i : Nat) : Nat :=
  (s >>> (8 * i)) &&& 255

/-- The entries at `x` and `y` exchanged. -/
def exchange (s x y : Nat) : Nat :=
  let d := entry s x ^^^ entry s y
  (s ^^^ (d <<< (8 * x))) ^^^ (d <<< (8 * y))

/-- `s` packs the permutation `f`. -/
def Packs (s : Nat) (f : Byte → Byte) : Prop :=
  ∀ x : Byte, entry s x.toNat = (f x).toNat

theorem testBit_entry (s i k : Nat) : (entry s i).testBit k = (decide (k < 8) && s.testBit (8 * i + k)) := by
  rw [entry, show 255 = 2 ^ 8 - 1 by rfl, Nat.testBit_and, Nat.testBit_shiftRight, Nat.testBit_two_pow_sub_one, Bool.and_comm]

theorem entry_shifted (s d i x : Nat) (h : ∀ k, 8 ≤ k → d.testBit k = false) :
    entry (s ^^^ (d <<< (8 * x))) i = if i = x then entry s i ^^^ d else entry s i := by
  apply Nat.eq_of_testBit_eq
  intro k
  by_cases hk : k < 8
  · by_cases hi : i = x
    · subst hi
      simp [testBit_entry, Nat.testBit_xor, Nat.testBit_shiftLeft, hk]
    · rw [if_neg hi]
      rw [testBit_entry, testBit_entry, Nat.testBit_xor, Nat.testBit_shiftLeft]
      by_cases hx : x < i
      · rw [h (8 * i + k - 8 * x) (by omega)]
        simp
      · simp [show ¬ 8 * x ≤ 8 * i + k by omega]
  · by_cases hi : i = x
    · simp [hi, testBit_entry, Nat.testBit_xor, hk, h k (by omega)]
    · simp [hi, testBit_entry, hk]

theorem packs_exchange {s : Nat} {f : Byte → Byte} (h : Packs s f) (x y : Byte) :
    Packs (exchange s x.toNat y.toNat) (swap f x y) := by
  intro z
  have hd : ∀ k, 8 ≤ k → (entry s x.toNat ^^^ entry s y.toNat).testBit k = false := by
    intro k hk
    simp [Nat.testBit_xor, testBit_entry, show ¬ k < 8 by omega]
  have hz : ∀ u : Byte, (z.toNat = u.toNat) = (z = u) := fun u => propext ⟨BitVec.eq_of_toNat_eq, congrArg _⟩
  simp only [exchange]
  rw [entry_shifted _ _ _ _ hd, entry_shifted _ _ _ _ hd]
  simp only [hz, h z, h x, h y, swap]
  by_cases hx : z = x
  · subst hx
    by_cases hy : z = y
    · subst hy; simp
    · simp [hy]
  · by_cases hy : z = y
    · subst hy
      simp [hx]
    · simp [hx, hy]

/-- The key-scheduling steps at `xs`, from S and J. -/
def schedule (k : ByteSeq) : List Nat → Nat → Nat → Nat
  | [], s, _ => s
  | x :: xs, s, j =>
    strict ((j + entry s x + (k.getD (x % k.length) 0#8).toNat) % 256) fun j1 =>
      strict (exchange s x j1) fun s1 => schedule k xs s1 j1

/-- The next `n` keystream bytes from S, I and J. -/
def stream : Nat → Nat → Nat → Nat → ByteSeq
  | 0, _, _, _ => []
  | n + 1, s, i, j =>
    strict ((i + 1) % 256) fun i1 =>
      strict ((j + entry s i1) % 256) fun j1 =>
        strict (exchange s i1 j1) fun s1 =>
          BitVec.ofNat 8 (entry s1 ((entry s1 i1 + entry s1 j1) % 256)) :: stream n s1 i1 j1

/-- The identity permutation, packed. -/
def identity : Nat :=
  (List.range 256).foldr (fun x s => s * 256 + x) 0

/-- `Transform(K, D)`, evaluated on the packed permutation. -/
def transform (k d : ByteSeq) : ByteSeq :=
  strict identity fun s0 =>
    strict (schedule k (List.range 256) s0 0) fun s => List.zipWith (· ^^^ ·) d (stream d.length s 0 0)

theorem packs_identity : Packs identity id := by
  have key : ∀ x : Byte, entry identity x.toNat = x.toNat := by decide +kernel
  exact key

theorem packs_schedule (k : ByteSeq) (m : Nat) : ∀ (n s : Nat), m + n ≤ 256 → Packs s (Reference.schedule k m).1 →
    Packs (schedule k (List.range' m n) s (Reference.schedule k m).2.toNat) (Reference.schedule k (m + n)).1
  | 0, _, _, h => h
  | n + 1, s, hm, h => by
    have hx : (BitVec.ofNat 8 m).toNat = m := by rw [BitVec.toNat_ofNat]; omega
    have hj : ((Reference.schedule k m).2.toNat + entry s m + (k.getD (m % k.length) 0#8).toNat) % 256 =
        (Reference.schedule k (m + 1)).2.toNat := by
      have := h (BitVec.ofNat 8 m)
      rw [hx] at this
      simp only [Reference.schedule, BitVec.toNat_add, this]
      omega
    have hs : Packs (exchange s m (Reference.schedule k (m + 1)).2.toNat) (Reference.schedule k (m + 1)).1 := by
      have := packs_exchange h (BitVec.ofNat 8 m) (Reference.schedule k (m + 1)).2
      rwa [hx] at this
    have ih := packs_schedule k (m + 1) n _ (by omega) hs
    rw [List.range'_succ, schedule, strict_eq, strict_eq, hj, show m + (n + 1) = m + 1 + n by omega]
    exact ih

theorem stream_eq : ∀ (n s : Nat) (f : Byte → Byte) (i j : Byte), Packs s f →
    stream n s i.toNat j.toNat = Reference.stream n f i j
  | 0, _, _, _, _, _ => rfl
  | n + 1, s, f, i, j, h => by
    have hi : (i.toNat + 1) % 256 = (i + 1#8).toNat := by simp [BitVec.toNat_add]
    have hj : (j.toNat + entry s (i + 1#8).toNat) % 256 = (j + f (i + 1#8)).toNat := by
      rw [h (i + 1#8), ← BitVec.toNat_add]
    have hs := packs_exchange h (i + 1#8) (j + f (i + 1#8))
    rw [stream, strict_eq, strict_eq, strict_eq, hi, hj, stream_eq n _ _ _ _ hs, Reference.stream]
    have hz : ∀ u v : Byte, (u.toNat + v.toNat) % 256 = (u + v).toNat := fun u v => (BitVec.toNat_add u v).symm
    rw [hs, hs, hz, hs, BitVec.ofNat_toNat, BitVec.setWidth_eq]

/-- The packed evaluation gives the value of the transform (R100 to R102). -/
theorem transform_eq (k d : ByteSeq) : Reference.transform k d = transform k d := by
  have h := packs_schedule k 0 256 identity (Nat.le_refl _) packs_identity
  rw [Reference.transform, transform, strict_eq, strict_eq, keystream]
  rw [← stream_eq d.length _ _ 0#8 0#8 h, ← List.range_eq_range']
  rfl

end Sys2Proof.Packed
end

