-- ==== Sys2Proof/Laws/PerInstr.lean ====
section
/-!
SUPPORT. What holds of each command as syntax: its frame begins with its opcode, a reserved opcode is none of them, and its
request decodes to it (30_encoding.md R60, R61, R62).
-/

namespace Sys2Proof.Laws.OpcodeByte

/-- The first byte of a command's frame is its opcode, which is not reserved, and the frame's request decodes to it. -/
def Statement (i : Instr) : Prop :=
  (encode i).head? = some i.opcode ∧ i.opcode ≠ 0#8 ∧ i.opcode.toNat < 6 ∧ decodeRequest i.request = some i

theorem csum (a b : ByteSeq) : Statement (.csum a b) := ⟨rfl, by simp [Instr.opcode], by simp [Instr.opcode], rfl⟩

theorem derive (a b : ByteSeq) : Statement (.derive a b) := ⟨rfl, by simp [Instr.opcode], by simp [Instr.opcode], rfl⟩

theorem xform (a b : ByteSeq) : Statement (.xform a b) := ⟨rfl, by simp [Instr.opcode], by simp [Instr.opcode], rfl⟩

theorem pack (a b : ByteSeq) : Statement (.pack a b) := ⟨rfl, by simp [Instr.opcode], by simp [Instr.opcode], rfl⟩

theorem unpack (a b : ByteSeq) : Statement (.unpack a b) := ⟨rfl, by simp [Instr.opcode], by simp [Instr.opcode], rfl⟩

end Sys2Proof.Laws.OpcodeByte
end

