-- ==== Sys2Proof/Laws/Step.lean ====
section
/-!
SUPPORT. What a step can do, said once: which of the five cases it is, and what the parts of each case answer.
-/

namespace Sys2Proof.Machine

/-! ## Taking bytes from the request port -/

theorem take_of_parse {bs rest : ByteSeq} {r : Request} (h : parseFrame bs = some (r, rest)) (s : State) :
    s.take bs = { s with ctl := .busy, latch := some r, rx := [], reqIn := rest } := by
  rw [State.take, h]

theorem take_of_partial {bs : ByteSeq} (h : parseFrame bs = none) (s : State) :
    s.take bs = { s with ctl := .busy, latch := none, rx := bs, reqIn := [] } := by
  rw [State.take, h]

/-- What taking bytes can do: latch a whole request, or keep the bytes of an incomplete one. -/
theorem take_cases (bs : ByteSeq) (s : State) :
    (∃ r rest, parseFrame bs = some (r, rest) ∧
      s.take bs = { s with ctl := .busy, latch := some r, rx := [], reqIn := rest }) ∨
    (parseFrame bs = none ∧ s.take bs = { s with ctl := .busy, latch := none, rx := bs, reqIn := [] }) := by
  cases h : parseFrame bs with
  | none => exact .inr ⟨rfl, take_of_partial h s⟩
  | some x => exact .inl ⟨x.1, x.2, rfl, take_of_parse h s⟩

/-! ## Executing -/

/-- Every command completes: it answers the completion of what its rule replies. -/
theorem exec_completes (i : Instr) (s : State) : ∃ st r, exec i s = .next (s.complete st r) := by
  cases i <;> exact ⟨_, _, rfl⟩

theorem executeLatched_completes (q : Request) (s : State) :
    ∃ st r, executeLatched q s = .next (s.complete st r) := by
  rw [executeLatched]
  cases decodeRequest q with
  | none => exact ⟨_, _, rfl⟩
  | some i => exact exec_completes i s

/-- The result of a reply that is not OK is empty (R64). -/
def Reply.Sound (rep : Reply) : Prop :=
  rep.status ≠ .ok → rep.result = []

theorem raiseStatus_sound (st : Status) (w : Work) : (raiseStatus st w).Sound := fun _ => rfl

theorem reply_sound (r : ByteSeq) (w : Work) : (reply r w).Sound := fun h => absurd rfl h

theorem csumReply_sound (p : Params) (a b : ByteSeq) (w : Work) : (csumReply p a b w).Sound := by
  unfold csumReply
  repeat' split
  all_goals first | exact raiseStatus_sound _ _ | exact reply_sound _ _

theorem deriveReply_sound (p : Params) (a b : ByteSeq) (w : Work) : (deriveReply p a b w).Sound := by
  unfold deriveReply
  repeat' split
  all_goals first | exact raiseStatus_sound _ _ | exact reply_sound _ _

theorem xformReply_sound (p : Params) (a b : ByteSeq) (w : Work) : (xformReply p a b w).Sound := by
  unfold xformReply
  repeat' split
  all_goals first | exact raiseStatus_sound _ _ | exact reply_sound _ _

theorem packReply_sound (p : Params) (a b : ByteSeq) (w : Work) : (packReply p a b w).Sound := by
  unfold packReply
  repeat' split
  all_goals first | exact raiseStatus_sound _ _ | exact reply_sound _ _

theorem verifyStage_sound (w : Work) : (verifyStage w).Sound := by
  unfold verifyStage
  dsimp only
  split
  · exact raiseStatus_sound _ _
  · exact reply_sound _ _

theorem unpackReply_sound (p : Params) (a b : ByteSeq) (w : Work) : (unpackReply p a b w).Sound := by
  unfold unpackReply unpackStages prefixStage hexSyntaxStage decryptStage
  repeat' split
  all_goals first | exact raiseStatus_sound _ _ | exact verifyStage_sound _

/-! ## The step -/

theorem step_reset {s : State} (h : s.rst = true) : step s = .next s.underReset := by
  rw [step, if_pos h]

theorem step_idle {s : State} (h : s.rst = false) (hc : s.ctl = .idle) : step s = s.idleStep := by
  rw [step, if_neg (by rw [h]; exact Bool.false_ne_true), hc]

theorem step_executing {s : State} {r : Request} (h : s.Executing r) : step s = executeLatched r s := by
  obtain ⟨h1, h2, h3⟩ := h
  rw [step, if_neg (by rw [h1]; exact Bool.false_ne_true), h2, h3]

theorem step_receiving {s : State} (h : s.rst = false) (hc : s.ctl = .busy) (hl : s.latch = none) :
    step s = s.receiveStep := by
  rw [step, if_neg (by rw [h]; exact Bool.false_ne_true), hc, hl]

/-- Every next state of a step: reset is held, the block idles, it takes bytes, or it completes the latched request. -/
theorem step_next_cases {s t : State} (h : step s = .next t) :
    (s.rst = true ∧ t = s.underReset) ∨
    (s.rst = false ∧ s.ctl = .idle ∧ s.reqIn = [] ∧ t = s) ∨
    (s.rst = false ∧ s.ctl = .idle ∧ s.reqIn ≠ [] ∧ t = s.take s.reqIn) ∨
    (s.rst = false ∧ s.ctl = .busy ∧ s.latch = none ∧ s.reqIn ≠ [] ∧ t = s.take (s.rx ++ s.reqIn)) ∨
    (∃ q, s.Executing q ∧ executeLatched q s = .next t) := by
  cases hr : s.rst with
  | true =>
    rw [step_reset hr] at h
    cases h
    exact .inl ⟨rfl, rfl⟩
  | false =>
    refine .inr ?_
    cases hc : s.ctl with
    | idle =>
      rw [step_idle hr hc, State.idleStep] at h
      split at h
      · next e => cases h; exact .inl ⟨rfl, rfl, e, rfl⟩
      · next e => cases h; exact .inr (.inl ⟨rfl, rfl, e, rfl⟩)
    | busy =>
      refine .inr (.inr ?_)
      cases hl : s.latch with
      | none =>
        rw [step_receiving hr hc hl, State.receiveStep] at h
        split at h
        · cases h
        · next e => cases h; exact .inl ⟨rfl, rfl, rfl, e, rfl⟩
      | some q =>
        rw [step_executing ⟨hr, hc, hl⟩] at h
        exact .inr ⟨q, ⟨hr, hc, hl⟩, h⟩

/-- A run of any machine whose next step has a next state goes on from it. -/
theorem run_of_next (M : Host.Core) {s t : M.State} (k : Nat) (h : M.step s = .next t) :
    M.run (k + 1) s = M.run k t := by
  rw [Host.Core.run, h]

/-- A run of the block whose next step has a next state goes on from it. -/
theorem core_run_of_next {s t : State} (k : Nat) (h : step s = .next t) :
    Host.Core.run Sys2Proof.core (k + 1) s = Host.Core.run Sys2Proof.core k t :=
  run_of_next Sys2Proof.core k h

/-- A table word's command is latched, and the next step executes it. -/
theorem step_withFetchWord (s : State) (nbits w : Nat) (i : Instr) (h : decodeTableWord nbits w = some i) :
    step (s.withFetchWord nbits w) = exec i (s.withFetchWord nbits w) := by
  unfold decodeTableWord decode at h
  cases hp : parseFrame (tableFrame nbits w) with
  | none => rw [hp] at h; cases h
  | some x =>
    obtain ⟨r, rest⟩ := x
    rw [hp] at h
    dsimp only at h
    cases hd : decodeRequest r with
    | none => rw [hd] at h; cases h
    | some j =>
      rw [hd] at h
      cases h
      have : (s.withFetchWord nbits w).Executing r := by
        unfold State.withFetchWord
        rw [take_of_parse hp]
        exact ⟨setReset_rst s false, rfl, rfl⟩
      rw [step_executing this, executeLatched, hd]

end Sys2Proof.Machine
end

