-- ==== Sys2Proof/Tests/Slice0.lean ====
section
/-!
SUPPORT. Tests and witnesses. A `test_` theorem checks one operation against a vector of 95_test_vectors.md, whose number it
gives, or against a sentence of the spec; a `witness_` theorem shows states and operands that meet every hypothesis of the
obligation it names, clause by clause, at the ends of each clause's range.
-/

namespace Sys2Proof.Tests

open Sys2Proof.Machine

/-! ## Helpers -/

/-- The `n` bytes that `v` writes out, first byte first, as the spec prints them in hex. -/
def bytesOf (n v : Nat) : ByteSeq :=
  (wordBytes n v).reverse

/-- MAGIC_EX, the example instantiation of 95_test_vectors.md. It is not the value of MAGIC. -/
def magicEx : Vector Byte 13 :=
  ⟨⟨[0x6f#8, 0x70#8, 0x69#8, 0x65#8, 0x77#8, 0x66#8, 0x36#8, 0x61#8, 0x73#8, 0x63#8, 0x78#8, 0x6c#8, 0x76#8]⟩, rfl⟩

/-- A block with MAGIC_EX. -/
def exPar (headroom : Option Nat) (upper : Bool) : Params :=
  ⟨magicEx, headroom, upper⟩

/-- MAX_LEN unbounded, upper-case digits accepted. -/
def exState : State :=
  State.resetWith (exPar none true)

/-- MAX_LEN at its least value, 21. -/
def smallState : State :=
  State.resetWith (exPar (some 0) true)

/-- Upper-case digits refused. -/
def lowerState : State :=
  State.resetWith (exPar none false)

/-- `s` executing `r`. -/
def running (r : Request) (s : State) : State :=
  { s with ctl := .busy, latch := some r }

/-- `n` zero bytes. -/
def zeros (n : Nat) : ByteSeq :=
  List.replicate n 0#8

/-- The command answers the status `st` and the result `r`. -/
def Answers (i : Instr) (s : State) (st : Byte) (r : ByteSeq) : Prop :=
  ∃ t, exec i s = .next t ∧ t.rspStatus = st ∧ t.rspR = r

theorem answers_of {i : Instr} {s : State} {st : Status} {r : ByteSeq} (h : Reference.answer s.par i = (st, r)) :
    Answers i s st.code r :=
  ⟨_, exec_answer i s, by rw [h]; rfl, by rw [h]; rfl⟩

theorem answers_unpack {s : State} {a : ByteSeq} {st : Status} {r : ByteSeq} (hw : s.par.Within a.length)
    (h : Reference.validate s.par a = (st, r)) : Answers (.unpack a []) s st.code r :=
  answers_of (by rw [Reference.answer_outcome hw (nil_within _) rfl]; exact h)

theorem step_running (i : Instr) {s : State} (h : s.rst = false) :
    ∃ t, step (running i.request s) = .next t ∧ t.rspStatus = (Reference.answer s.par i).1.code ∧
      t.rspR = (Reference.answer s.par i).2 := by
  have hr : (running i.request s).Executing i.request := ⟨h, rfl, rfl⟩
  refine ⟨(running i.request s).complete (Reference.answer s.par i).1 (Reference.answer s.par i).2, ?_, rfl, rfl⟩
  · rw [step_executing hr, executeLatched, decodeRequest_request]
    exact exec_answer i _

theorem ex_within (u : Bool) (n : Nat) : (exPar none u).Within n := by
  intro m h
  cases h

theorem exState_within (n : Nat) : exState.par.Within n := ex_within true n

theorem small_within (n : Nat) : smallState.par.Within n ↔ n ≤ 21 :=
  ⟨fun h => h 21 rfl, fun h => within_of_le _ h⟩

/-- UNPACK's outcome on a payload of hex digits, with RC4 evaluated on the packed permutation. -/
theorem validate_evaluated (p : Params) (t : ByteSeq) (c : Byte) (ct plain : ByteSeq) (h : 20 ≤ t.length)
    (hm : t.head? = some 0x40#8) (hx : Reference.unhex p.hexAcceptUpper t.tail = some (c :: ct))
    (hp : Packed.transform (Reference.key p c) ct = plain) :
    Reference.validate p t = if Reference.checksum plain = c then (.ok, plain) else (.checksumMismatch, []) := by
  rw [Reference.validate_payload p h hm hx, Packed.transform_eq, hp]

/-! ## Well-formedness: each check refuses -/

theorem lengthFits_zeros (n : Nat) : lengthFits (zeros n) = decide (n < 2 ^ 32) := by
  rw [lengthFits, zeros, List.length_replicate]

theorem test_wf_refuses_long_a (n : Nat) (h : n = 2 ^ 32) : (Instr.csum (zeros n) []).wf = false := by
  rw [Instr.wf, Instr.opA, lengthFits_zeros, h]
  simp

theorem test_wf_refuses_long_b (n : Nat) (h : n = 2 ^ 32) : (Instr.xform [] (zeros n)).wf = false := by
  rw [Instr.wf, Instr.opB, lengthFits_zeros, h]
  simp

theorem test_wf_accepts_longest (n : Nat) (h : n = 2 ^ 32 - 1) : (Instr.unpack (zeros n) []).wf = true := by
  rw [Instr.wf, Instr.opA, lengthFits_zeros, h]
  rfl

/-- The same checks on a request. -/
theorem test_wf_refuses_long_request (n : Nat) (h : n = 2 ^ 32) :
    (Request.mk 0x07#8 (zeros n) []).wf = false ∧ (Request.mk 0x07#8 [] (zeros n)).wf = false := by
  simp only [Request.wf, lengthFits_zeros, h]
  simp

/-! ## Decoding: the frames of programs P1 to P4 -/

/-- P2, frame 1: CSUM "10.0.0.1:80". -/
theorem test_decode_csum :
    decode (bytesOf 20 0x010000000b31302e302e302e313a383000000000) =
      .instr (.csum (bytesOf 11 0x31302e302e302e313a3830) []) [] := by decide +kernel

/-- P2, frame 2: DERIVE 0x1e. -/
theorem test_decode_derive : decode (bytesOf 10 0x02000000011e00000000) = .instr (.derive [0x1e#8] []) [] := by
  decide +kernel

/-- P4, frame 1: XFORM, the one command with a B. -/
theorem test_decode_xform :
    decode (bytesOf 27 0x030000000d000102030405060708090a0b0c0000000568656c6c6f) =
      .instr (.xform (bytesOf 13 0x000102030405060708090a0b0c) (bytesOf 5 0x68656c6c6f)) [] := by decide +kernel

/-- P1, frame 1: PACK "192.168.0.1:7743". -/
theorem test_decode_pack :
    decode (bytesOf 25 0x04000000103139322e3136382e302e313a3737343300000000) =
      .instr (.pack (bytesOf 16 0x3139322e3136382e302e313a37373433) []) [] := by decide +kernel

/-- P3, frame 1: UNPACK "@". -/
theorem test_decode_unpack : decode (bytesOf 10 0x05000000014000000000) = .instr (.unpack [0x40#8] []) [] := by
  decide +kernel

/-- A table word of UNPACK is its opcode byte, with zero bytes after it. -/
theorem test_table_word : decodeTableWord 8 0x05 = some (.unpack [] []) := by decide

theorem test_table_word_runs :
    step (State.reset.withFetchWord 8 0x05) = exec (.unpack [] []) (State.reset.withFetchWord 8 0x05) := rfl

/-! ## The commands -/

/-- V-CS-4. -/
theorem test_csum_wraps : Answers (.csum [0xff#8, 0x01#8] []) exState 0x00#8 [0x00#8] := answers_of (st := .ok) (by decide)

/-- V-CS-12. -/
theorem test_csum_with_b : Answers (.csum [0x61#8] [0x62#8]) exState 0x11#8 [] := answers_of (st := .badOperand) (by decide)

/-- V-DK-2. -/
theorem test_derive : Answers (.derive [0xba#8] []) exState 0x00#8 (bytesOf 13 0xba706965776636617363786c76) :=
  answers_of (st := .ok) (by decide +kernel)

/-- V-DK-6. -/
theorem test_derive_two_bytes : Answers (.derive [0x01#8, 0x02#8] []) exState 0x11#8 [] := answers_of (st := .badOperand) (by decide)

/-- V-XF-4. -/
theorem test_xform :
    Answers (.xform (bytesOf 13 0x000102030405060708090a0b0c) (bytesOf 5 0x68656c6c6f)) exState 0x00#8
      (bytesOf 5 0xec9784f610) := by
  refine answers_of (st := .ok) ?_
  rw [Reference.answer_outcome (exState_within _) (exState_within _) (by decide +kernel), Reference.outcome, Packed.transform_eq]
  decide +kernel

/-- V-XF-10. -/
theorem test_xform_short_key : Answers (.xform (zeros 12) [0x68#8, 0x69#8]) exState 0x11#8 [] := answers_of (st := .badOperand) (by decide)

/-- V-PK-1. -/
theorem test_pack :
    Answers (.pack (bytesOf 14 0x3132332e312e322e333a31323334) []) exState 0x00#8
      (bytesOf 31 0x40626139353832613338336337643665373963643564386337316637333437) := by
  refine answers_of (st := .ok) ?_
  rw [Reference.answer_outcome (exState_within _) (nil_within _) (by decide +kernel), Reference.outcome, Reference.token,
    Packed.transform_eq]
  decide +kernel

/-- V-PK-10. -/
theorem test_pack_empty : Answers (.pack [] []) exState 0x11#8 [] := answers_of (st := .badOperand) (by decide)

/-- V-UP-16: the collision of program P5. -/
theorem test_unpack_collision :
    Answers (.unpack (bytesOf 31 0x40373339353832613338336337643665373963643564386337316637333437) []) exState 0x00#8
      (bytesOf 14 0xbce29489296b9dc1c5bf64a08faf) := by
  refine answers_unpack (st := .ok) (ex_within _ _) ?_
  rw [validate_evaluated _ _ 0x73#8 (bytesOf 14 0x9582a383c7d6e79cd5d8c71f7347)
    (bytesOf 14 0xbce29489296b9dc1c5bf64a08faf) (by decide +kernel) (by decide +kernel) (by decide +kernel)
    (by decide +kernel)]
  decide +kernel

/-- V-UP-17 with HEX_ACCEPT_UPPER false. -/
theorem test_unpack_refuses_upper :
    Answers (.unpack (bytesOf 31 0x40424139353832413338334337443645373943443544384337314637333437) []) lowerState 0x03#8
      [] :=
  answers_unpack (st := .badEncoding) (ex_within _ _) (Reference.validate_encoding _ (by decide +kernel)
    (by decide +kernel) (by decide +kernel))

/-- V-BE-3: a reserved opcode comes before every operand check. -/
theorem test_reserved_opcode :
    ∃ t, step (running ⟨0xff#8, zeros 5, []⟩ exState) = .next t ∧ t.rspStatus = 0x10#8 ∧ t.rspR = [] :=
  ⟨_, rfl, rfl, rfl⟩

/-- P2, response frame 1. -/
theorem test_response_frame : responseFrame .ok [0x1e#8] = bytesOf 6 0x00000000011e := by decide

/-- V-RC4-1, the key "Key": the passes take a key of any length. -/
theorem test_rc4_key_of_three :
    List.zipWith (· ^^^ ·) (bytesOf 9 0x506c61696e74657874) ((Work.reset.ksa [0x4b#8, 0x65#8, 0x79#8]).prga 9).z =
      bytesOf 9 0xbbf316e8d940af0ad3 := by
  rw [prga_z, readS_ksa]
  exact (Packed.transform_eq [0x4b#8, 0x65#8, 0x79#8] (bytesOf 9 0x506c61696e74657874)).trans (by decide +kernel)

/-! ## Witnesses: encoding -/

theorem witness_DecodeOfEncodeIsTheCommand :
    (Instr.csum [] []).wf = true ∧ ∀ n, n = 2 ^ 32 - 1 → (Instr.xform (zeros n) (zeros n)).wf = true := by
  refine ⟨rfl, fun n h => ?_⟩
  rw [Instr.wf, Instr.opA, Instr.opB, lengthFits_zeros, h]
  rfl

theorem witness_DecodedBytesAreTheEncoding :
    decode (bytesOf 10 0x010000000000000000ff) = .instr (.csum [] []) [0xff#8] := by decide +kernel

theorem witness_LengthFieldsFixTheFrameEnd :
    (Request.mk 0x01#8 [] []).wf = true ∧
    requestFrame ⟨0x01#8, [], []⟩ = bytesOf 8 0x0100000000000000 ++ [0#8] ∧
    requestFrame ⟨0x01#8, [], []⟩ = [] ++ bytesOf 9 0x010000000000000000 := by decide

theorem witness_LengthFieldsAreBigEndian :
    (∀ n, n = 2 ^ 32 - 1 → (Request.mk 0x03#8 (zeros n) (zeros n)).wf = true) ∧
    ∀ n, n = 2 ^ 32 - 1 → (zeros n).length < 2 ^ 32 := by
  refine ⟨fun n h => ?_, fun n h => ?_⟩
  · simp only [Request.wf, lengthFits_zeros, h]
    rfl
  · rw [zeros, List.length_replicate, h]
    omega

theorem executing_running (r : Request) : (running r exState).Executing r := ⟨rfl, rfl, rfl⟩

theorem witness_ReservedOpcodesAnswerIllegalCommand :
    (running ⟨0x00#8, [], []⟩ exState).Executing ⟨0x00#8, [], []⟩ ∧
    ((running ⟨0x06#8, [0#8], []⟩ exState).Executing ⟨0x06#8, [0#8], []⟩ ∧ 6 ≤ (0x06#8 : Byte).toNat) ∧
    ((running ⟨0xff#8, [], [0#8]⟩ exState).Executing ⟨0xff#8, [], [0#8]⟩ ∧ 6 ≤ (0xff#8 : Byte).toNat) ∧
    ∃ t, step (running ⟨0x06#8, [0#8], []⟩ exState) = .next t ∧ t.rspStatus = 0x10#8 :=
  ⟨executing_running _, ⟨executing_running _, by decide⟩, ⟨executing_running _, by decide⟩, _, rfl, rfl⟩

/-! ## Witnesses: the step -/

/-- `exState` with `bs` on its request port. -/
def sent (bs : ByteSeq) : State :=
  exState.hostSend bs

/-- CSUM "a" as a request. -/
def csumA : Request := ⟨0x01#8, [0x61#8], []⟩

theorem witness_IdleBlockLatchesTheRequest :
    (sent (requestFrame csumA ++ [0xff#8])).rst = false ∧ (sent (requestFrame csumA ++ [0xff#8])).ctl = .idle ∧
    csumA.wf = true ∧ (sent (requestFrame csumA ++ [0xff#8])).reqIn = requestFrame csumA ++ [0xff#8] :=
  ⟨rfl, rfl, rfl, rfl⟩

theorem witness_StepRunsTheDecodedCommand :
    (running csumA exState).Executing csumA ∧ decodeRequest csumA = some (.csum [0x61#8] []) :=
  ⟨executing_running _, rfl⟩

theorem witness_FrameAtThePortIsExecuted :
    (sent (encode (.csum [0x61#8] []))).rst = false ∧ (sent (encode (.csum [0x61#8] []))).ctl = .idle ∧
    (Instr.csum [0x61#8] []).wf = true ∧
    (sent (encode (.csum [0x61#8] []))).reqIn = encode (.csum [0x61#8] []) ++ [] :=
  ⟨rfl, rfl, rfl, rfl⟩

theorem witness_PartialFrameLeavesTheBlockStuck :
    (sent [0x01#8]).rst = false ∧ (sent [0x01#8]).ctl = .idle ∧ (sent [0x01#8]).reqIn ≠ [] ∧
    parseFrame (sent [0x01#8]).reqIn = none ∧ parseFrame (sent (bytesOf 9 0x010000000161000000)).reqIn = none := by
  decide

/-- A BUSY block that has received `bs` of a frame. -/
def receiving (bs : ByteSeq) : State :=
  { exState with ctl := .busy, rx := bs }

/-- CSUM "a" in four parts: one byte, the whole middle in two, and the last byte. -/
theorem witness_SplitFrameIsLatchedWhole :
    (((receiving [0x01#8]).hostSend [0#8]).rst = false ∧ ((receiving [0x01#8]).hostSend [0#8]).ctl = .busy ∧
      ((receiving [0x01#8]).hostSend [0#8]).latch = none ∧ ((receiving [0x01#8]).hostSend [0#8]).reqIn ≠ [] ∧
      parseFrame (((receiving [0x01#8]).hostSend [0#8]).rx ++ ((receiving [0x01#8]).hostSend [0#8]).reqIn) = none) ∧
    (csumA.wf = true ∧ [0x01#8] ++ bytesOf 10 0x000000016100000000ff = requestFrame csumA ++ [0xff#8]) ∧
    exState.Ready ∧
    requestFrame csumA = [[0x01#8], bytesOf 3 0x000000, bytesOf 5 0x0161000000].flatten ++ [0#8] ∧
    (∀ part ∈ [[0x01#8], bytesOf 3 0x000000, bytesOf 5 0x0161000000], part ≠ []) ∧ ([0#8] : ByteSeq) ≠ [] ∧
    requestFrame csumA = ([] : List ByteSeq).flatten ++ requestFrame csumA :=
  ⟨by decide, by decide, ⟨rfl, rfl, rfl⟩, by decide, by decide, by decide, rfl⟩

theorem witness_BytesSentWhileBusyWait :
    ∃ t, (running csumA exState).Executing csumA ∧ step (running csumA exState) = .next t :=
  ⟨_, executing_running _, rfl⟩

/-- A BUSY block, whose command reset abandons, and a block under reset with a frame on its port. -/
theorem witness_ResetAbandonsTheCommand :
    (running csumA exState).ctl = .busy ∧ ((running csumA exState).setReset true).rst = true ∧
    ((sent (requestFrame csumA ++ [0xff#8])).setReset true).rst = true ∧ csumA.wf = true ∧
    (sent (requestFrame csumA ++ [0xff#8])).reqIn = requestFrame csumA ++ [0xff#8] ∧
    ((sent (requestFrame csumA ++ [0xff#8])).setReset true).reqIn = requestFrame csumA ++ [0xff#8] :=
  ⟨rfl, rfl, rfl, rfl, rfl, rfl⟩

/-- R170: reset asserted and deasserted with no step in between has abandoned the command. -/
theorem test_reset_pulse_abandons :
    let s := ((running csumA exState).setReset true).setReset false
    s.ctl = .idle ∧ s.latch = none ∧ s.rst = false ∧ step s = .next s :=
  ⟨rfl, rfl, rfl, rfl⟩

theorem witness_StepNeverWritesMagic :
    (∃ t, step exState = .next t) ∧ (∃ t, step (exState.setReset true) = .next t) ∧
    (∃ t, step (sent [0x01#8]) = .next t) ∧ ∃ t, step (running csumA exState) = .next t :=
  ⟨⟨_, rfl⟩, ⟨_, rfl⟩, ⟨_, rfl⟩, ⟨_, rfl⟩⟩

/-! ## Witnesses: the commands -/

/-- Lengths 21 and 22 stand on the two sides of the least MAX_LEN. -/
theorem zeros_within (n : Nat) : smallState.par.Within (zeros n).length ↔ n ≤ 21 := by
  rw [zeros, List.length_replicate, small_within]

theorem witness_CsumRule :
    ¬ (smallState.par.Within (zeros 22).length ∧ smallState.par.Within (zeros 0).length) ∧
    ¬ (smallState.par.Within (zeros 0).length ∧ smallState.par.Within (zeros 22).length) ∧
    (smallState.par.Within (zeros 21).length ∧ smallState.par.Within (zeros 1).length ∧ zeros 1 ≠ []) ∧
    smallState.par.Within (zeros 21).length ∧ zeros 0 = [] := by
  simp only [zeros_within]
  decide

theorem witness_DeriveRule :
    ¬ (smallState.par.Within (zeros 22).length ∧ smallState.par.Within (zeros 0).length) ∧
    (smallState.par.Within (zeros 0).length ∧ smallState.par.Within (zeros 0).length ∧ (zeros 0).length ≠ 1) ∧
    (smallState.par.Within (zeros 2).length ∧ smallState.par.Within (zeros 0).length ∧ (zeros 2).length ≠ 1) ∧
    (smallState.par.Within (zeros 1).length ∧ smallState.par.Within (zeros 1).length ∧ zeros 1 ≠ []) ∧
    zeros 1 = [0x00#8] ∧ zeros 0 = [] := by
  simp only [zeros_within]
  decide

theorem witness_XformRule :
    ¬ (smallState.par.Within (zeros 13).length ∧ smallState.par.Within (zeros 22).length) ∧
    (smallState.par.Within (zeros 12).length ∧ smallState.par.Within (zeros 0).length ∧ (zeros 12).length ≠ 13) ∧
    (smallState.par.Within (zeros 14).length ∧ smallState.par.Within (zeros 0).length ∧ (zeros 14).length ≠ 13) ∧
    ((zeros 13).length = 13 ∧ smallState.par.Within (zeros 21).length) ∧
    (zeros 13).length = 13 ∧ smallState.par.Within (zeros 0).length := by
  simp only [zeros_within]
  decide

theorem witness_PackRule :
    ¬ (smallState.par.Within (zeros 22).length ∧ smallState.par.Within (zeros 0).length) ∧
    (smallState.par.Within (zeros 0).length ∧ zeros 0 = []) ∧
    (smallState.par.Within (zeros 1).length ∧ smallState.par.Within (zeros 1).length ∧ zeros 1 ≠ []) ∧
    (smallState.par.Within (zeros 1).length ∧ zeros 1 ≠ [] ∧ zeros 0 = []) ∧
    smallState.par.Within (zeros 21).length ∧ zeros 21 ≠ [] := by
  simp only [zeros_within]
  decide

/-- A token made of the sum byte `c` and the plaintext `plain`, under MAGIC_EX. -/
def made (c : Byte) (plain : ByteSeq) : ByteSeq :=
  marker :: Reference.hex (c :: Reference.transform (Reference.key exState.par c) plain)

theorem made_length (c : Byte) (plain : ByteSeq) : (made c plain).length = 3 + 2 * plain.length := by
  rw [made, List.length_cons, Reference.hex_length, List.length_cons, Reference.transform_length]
  omega

/-- '@' and `n` digits '0'. -/
def markedZeros (n : Nat) : ByteSeq :=
  0x40#8 :: List.replicate n 0x30#8

theorem witness_UnpackRule :
    ¬ (smallState.par.Within (zeros 22).length ∧ smallState.par.Within (zeros 0).length) ∧
    (smallState.par.Within (zeros 21).length ∧ smallState.par.Within (zeros 1).length ∧ zeros 1 ≠ []) ∧
    (smallState.par.Within (zeros 19).length ∧ (zeros 19).length < 20) ∧
    (smallState.par.Within (zeros 20).length ∧ 20 ≤ (zeros 20).length ∧ (zeros 20).head? ≠ some 0x40#8) ∧
    (20 ≤ (markedZeros 19).length ∧ (markedZeros 19).head? = some 0x40#8 ∧
      Reference.unhex true (markedZeros 19).tail = none) ∧
    20 ≤ (markedZeros 20).length ∧ (markedZeros 20).head? = some 0x40#8 ∧
      Reference.unhex true (markedZeros 20).tail = some (0#8 :: zeros 9) := by
  simp only [zeros_within]
  decide +kernel

theorem witness_EveryRequestGetsItsReferenceAnswer : (running csumA exState).Executing csumA :=
  executing_running _

theorem witness_CommandFrame :
    ∃ t, exec (.csum [0x61#8] []) exState = .next t ∧ t.rspR.length < 2 ^ 32 :=
  ⟨_, exec_answer _ _, by decide⟩

theorem witness_EveryCommandEndsInOneOutcome : (running csumA exState).Executing csumA :=
  executing_running _

/-- The validator's two last outcomes, on tokens made for them. -/
theorem answers_made (c : Byte) (plain : ByteSeq) (h : 9 ≤ plain.length) :
    (Reference.checksum plain = c → Answers (.unpack (made c plain) []) exState 0x00#8 plain) ∧
    (Reference.checksum plain ≠ c → Answers (.unpack (made c plain) []) exState 0x04#8 []) := by
  have hv := Reference.validate_made exState.par c plain h
  refine ⟨fun hc => ?_, fun hc => ?_⟩
  · rw [if_pos hc] at hv
    exact answers_unpack (st := .ok) (exState_within _) hv
  · rw [if_neg hc] at hv
    exact answers_unpack (st := .checksumMismatch) (exState_within _) hv

/-- Each FormatError is raised. -/
theorem witness_FormatErrorCauses :
    Answers (.unpack (markedZeros 18) []) exState 0x01#8 [] ∧ Answers (.unpack (zeros 20) []) exState 0x02#8 [] ∧
    Answers (.unpack (markedZeros 19) []) exState 0x03#8 [] ∧
    Answers (.unpack (markedZeros 19 ++ [0x67#8]) []) exState 0x03#8 [] ∧
    Answers (.unpack (made 0x01#8 (zeros 9)) []) exState 0x04#8 [] ∧
    Answers (.unpack (made 0x00#8 (zeros 9)) []) exState 0x00#8 (zeros 9) :=
  ⟨answers_of (st := .tooShort) (by decide +kernel), answers_of (st := .badPrefix) (by decide +kernel),
    answers_of (st := .badEncoding) (by decide +kernel), answers_of (st := .badEncoding) (by decide +kernel),
    (answers_made _ _ (by decide)).2 (by decide), (answers_made _ _ (by decide)).1 (by decide)⟩

/-- Each block error is raised, by every row it belongs to. -/
theorem witness_BlockErrorCauses :
    (∃ t, step (running ⟨0x06#8, [], []⟩ exState) = .next t ∧ t.rspStatus = 0x10#8) ∧
    (∃ t, step (running (Instr.csum (zeros 22) []).request smallState) = .next t ∧ t.rspStatus = 0x12#8) ∧
    (∃ t, step (running (Instr.xform (zeros 13) (zeros 22)).request smallState) = .next t ∧ t.rspStatus = 0x12#8) ∧
    (∃ t, step (running (Instr.csum [] (zeros 21)).request smallState) = .next t ∧ t.rspStatus = 0x11#8) ∧
    (∃ t, step (running (Instr.derive [] []).request smallState) = .next t ∧ t.rspStatus = 0x11#8) ∧
    (∃ t, step (running (Instr.xform (zeros 14) []).request smallState) = .next t ∧ t.rspStatus = 0x11#8) ∧
    ∃ t, step (running (Instr.pack [] []).request smallState) = .next t ∧ t.rspStatus = 0x11#8 := by
  have key : ∀ (i : Instr) (b : Byte), (Reference.answer smallState.par i).1.code = b →
      ∃ t, step (running i.request smallState) = .next t ∧ t.rspStatus = b := by
    intro i b h
    obtain ⟨t, e, hs, _⟩ := step_running i (s := smallState) rfl
    exact ⟨t, e, hs.trans h⟩
  exact ⟨⟨_, rfl, rfl⟩, key _ _ (by decide), key _ _ (by decide), key _ _ (by decide), key _ _ (by decide),
    key _ _ (by decide), key _ _ (by decide)⟩

/-- For each of the seven clauses a request that meets its cause and a later one, or for the last none. -/
theorem witness_ErrorsAreReportedInPriorityOrder :
    (∃ t, step (running ⟨0x07#8, zeros 22, zeros 1⟩ smallState) = .next t) ∧
    ((∃ t, step (running (Instr.unpack (zeros 22) (zeros 1)).request smallState) = .next t) ∧
      ¬ smallState.par.Within (zeros 22).length) ∧
    ((∃ t, step (running (Instr.unpack (zeros 19) (zeros 1)).request smallState) = .next t) ∧
      smallState.par.Within (zeros 19).length ∧ smallState.par.Within (zeros 1).length ∧ zeros 1 ≠ []) ∧
    ((∃ t, step (running (Instr.unpack (zeros 19) []).request smallState) = .next t) ∧
      (zeros 19).length < 20 ∧ (zeros 19).head? ≠ some 0x40#8) ∧
    ((∃ t, step (running (Instr.unpack (zeros 20) []).request smallState) = .next t) ∧
      ¬ (zeros 20).length < 20 ∧ (zeros 20).head? ≠ some 0x40#8 ∧ (zeros 20).tail.length % 2 = 1) ∧
    ((∃ t, step (running (Instr.unpack (markedZeros 19) []).request smallState) = .next t) ∧
      ¬ (markedZeros 19).length < 20 ∧ (markedZeros 19).head? = some 0x40#8 ∧ (markedZeros 19).tail.length % 2 = 1) ∧
    (∃ t, step (running (Instr.unpack (markedZeros 20) []).request smallState) = .next t) ∧
      smallState.par.Within (markedZeros 20).length ∧ ¬ (markedZeros 20).length < 20 ∧
      (markedZeros 20).head? = some 0x40#8 ∧ (markedZeros 20).tail.length % 2 = 0 ∧
      ∀ c ∈ (markedZeros 20).tail, isHexDigit smallState.par c = true := by
  have key : ∀ i : Instr, ∃ t, step (running i.request smallState) = .next t := by
    intro i
    obtain ⟨t, e, _⟩ := step_running i (s := smallState) rfl
    exact ⟨t, e⟩
  refine ⟨⟨_, rfl⟩, ⟨key _, by rw [zeros_within]; omega⟩, ⟨key _, ?_, ?_, by decide⟩, ⟨key _, by decide, by decide⟩,
    ⟨key _, by decide, by decide, by decide⟩, ⟨key _, by decide, by decide, by decide⟩, key _, ?_, by decide, by decide,
    by decide, by decide⟩
  · rw [zeros_within]; omega
  · rw [zeros_within]; omega
  · rw [small_within]; decide

/-! ## Witnesses: the datapath -/

/-- Working registers other than those of reset. -/
def otherWork : Work :=
  { Work.reset with acc := 0x55#8, i := 0x66#8, j := 0x77#8, n := 3, out := [0x01#8] }

theorem witness_ChecksumGroupingLaws : ([0x01#8, 0xff#8] : ByteSeq).Perm [0xff#8, 0x01#8] :=
  List.Perm.swap _ _ _

theorem witness_DeriveStepWritesTheKey :
    ((1 : Nat) < 13 ∧ (12 : Nat) < 13 ∧ (1 : Nat) ≤ 1) ∧
    (running csumA exState).Executing csumA ∧ (∃ t, step (running csumA exState) = .next t) ∧
    ∃ v, step { running csumA exState with
      par := { (running csumA exState).par with magic := (running csumA exState).par.magic.set 0 0#8 } } = .next v :=
  ⟨by decide, executing_running _, ⟨_, rfl⟩, ⟨_, rfl⟩⟩

theorem witness_KeysDifferInByteZero : (0x00#8 : Byte) ≠ 0xff#8 ∧ (0 : Nat) < 13 ∧ (12 : Nat) < 13 := by decide

theorem witness_KeyScheduleLeavesAPermutation : 1 ≤ ([0x00#8] : ByteSeq).length ∧ 1 ≤ (zeros 13).length := by decide

theorem witness_ByteGenerationKeepsAPermutation : Function.Bijective Work.reset.initS.readS := by
  rw [readS_initS]
  exact Function.bijective_id

theorem witness_TransformIsSelfInverse : Work.reset.key = otherWork.key := rfl

theorem witness_TransformLengthPrefixXorLaws :
    Work.reset.key = otherWork.key ∧ ([0x01#8] : ByteSeq).length = ([0x02#8] : ByteSeq).length := ⟨rfl, rfl⟩

/-- The ends of the three ranges of digits. -/
theorem witness_HexAlphabet :
    (0x30 ≤ (0x30#8 : Byte).toNat ∧ (0x39#8 : Byte).toNat ≤ 0x39) ∧
    (0x61 ≤ (0x61#8 : Byte).toNat ∧ (0x66#8 : Byte).toNat ≤ 0x66) ∧
    (0x41 ≤ (0x41#8 : Byte).toNat ∧ (0x46#8 : Byte).toNat ≤ 0x46) ∧
    isHexDigit exState.par 0x46#8 = true ∧ isHexDigit lowerState.par 0x46#8 = false ∧
    isHexDigit exState.par 0x47#8 = false ∧ isHexDigit exState.par 0x2f#8 = false := by decide

theorem witness_HexDecodeOfHexEncode :
    0 < ([0x62#8, 0x61#8] : ByteSeq).length / 2 ∧ 1 < (bytesOf 4 0x62616261).length / 2 := by decide

/-! ## Witnesses: independence -/

theorem witness_ResponseIgnoresWorkingState :
    (running csumA exState).Executing csumA ∧
    ({ running csumA exState with work := otherWork, rspStatus := 0x04#8, draw := 9 } : State).Executing csumA :=
  ⟨executing_running _, ⟨rfl, rfl, rfl⟩⟩

theorem witness_XformAndCsumIgnoreMagic :
    (∃ t v, exec (.xform (zeros 13) [0x00#8]) exState = .next t ∧
      exec (.xform (zeros 13) [0x00#8]) { exState with par := { exState.par with magic := Vector.replicate 13 0#8 } } =
        .next v) ∧
    ∃ t v, exec (.csum [0x61#8] []) exState = .next t ∧
      exec (.csum [0x61#8] []) { exState with par := { exState.par with magic := Vector.replicate 13 0#8 } } = .next v :=
  ⟨⟨_, _, exec_answer _ _, exec_answer _ _⟩, ⟨_, _, exec_answer _ _, exec_answer _ _⟩⟩

theorem exState_ready : exState.Ready := ⟨rfl, rfl, rfl⟩

/-- PACK "a" as a request. -/
def packA : Request := ⟨0x04#8, [0x61#8], []⟩

theorem witness_RepeatedRequestsAnswerAlike :
    exState.Ready ∧ packA.wf = true ∧ (∀ q ∈ [csumA, ⟨0x07#8, [], []⟩], q.wf = true) ∧ ∀ q ∈ ([] : List Request), q.wf = true :=
  ⟨exState_ready, rfl, by decide, by decide⟩

theorem witness_RequestsAreAnsweredInOrder :
    (∀ q ∈ [csumA, packA], q.wf = true) ∧ (sent ([csumA, packA].flatMap requestFrame)).rst = false ∧
    (sent ([csumA, packA].flatMap requestFrame)).ctl = .idle ∧
    (sent ([csumA, packA].flatMap requestFrame)).reqIn = [csumA, packA].flatMap requestFrame := by decide

theorem witness_OneAtATimeGivesTheSameResponses : (∀ q ∈ [csumA, packA], q.wf = true) ∧ exState.Ready :=
  ⟨by decide, exState_ready⟩

/-! ## Witnesses: the codec -/

theorem witness_UnpackOfPackIsTheAddress :
    zeros 9 ≠ [] ∧ smallState.par.Within (3 + 2 * (zeros 9).length) ∧ 9 ≤ (zeros 9).length ∧
    zeros 8 ≠ [] ∧ smallState.par.Within (3 + 2 * (zeros 8).length) ∧ (zeros 8).length ≤ 8 ∧
    zeros 1 ≠ [] ∧ smallState.par.Within (3 + 2 * (zeros 1).length) := by
  simp only [small_within]
  decide

theorem witness_PackedTokenFormat : zeros 1 ≠ [] ∧ smallState.par.Within (zeros 1).length ∧
    zeros 21 ≠ [] ∧ smallState.par.Within (zeros 21).length := by
  simp only [zeros_within]
  decide

/-- The token of W3, whose digits are known (V-UP-19). -/
def tokenW3 : ByteSeq :=
  bytesOf 21 0x406234313130333636663039303763333364373263

theorem tokenW3_accepted : Answers (.unpack tokenW3 []) exState 0x00#8 (bytesOf 9 0x302e302e302e303a30) := by
  refine answers_unpack (st := .ok) (exState_within _) ?_
  rw [validate_evaluated _ _ 0xb4#8 (bytesOf 9 0x110366f0907c33d72c) (bytesOf 9 0x302e302e302e303a30)
    (by decide +kernel) (by decide +kernel) (by decide +kernel) (by decide +kernel)]
  decide +kernel

theorem unpack_next (tok : ByteSeq) : ∃ v, exec (.unpack tok []) exState = .next v := ⟨_, exec_answer _ _⟩

/-- The first ciphertext byte 0x11 and the last 0x2c: changed, rewritten ('c' to 'C'), and spoilt. -/
theorem witness_CiphertextTamperIsDetected :
    (∃ t, exec (.unpack tokenW3 []) exState = .next t ∧ t.rspStatus = Status.ok.code) ∧
    (1 ≤ 1 ∧ 2 + 2 * 1 < tokenW3.length ∧ isHexDigit exState.par 0x30#8 = true ∧ isHexDigit exState.par 0x31#8 = true ∧
      16#8 * hexVal 0x30#8 + hexVal 0x31#8 ≠
        16#8 * hexVal (tokenW3.getD (1 + 2 * 1) 0#8) + hexVal (tokenW3.getD (2 + 2 * 1) 0#8)) ∧
    (1 ≤ 9 ∧ 2 + 2 * 9 < tokenW3.length ∧ isHexDigit exState.par 0x32#8 = true ∧ isHexDigit exState.par 0x43#8 = true ∧
      16#8 * hexVal 0x32#8 + hexVal 0x43#8 =
        16#8 * hexVal (tokenW3.getD (1 + 2 * 9) 0#8) + hexVal (tokenW3.getD (2 + 2 * 9) 0#8)) ∧
    isHexDigit exState.par 0x67#8 = false ∧
    ∀ k h l, ∃ v, exec (.unpack ((tokenW3.set (1 + 2 * k) h).set (2 + 2 * k) l) []) exState = .next v := by
  obtain ⟨t, e, hs, _⟩ := tokenW3_accepted
  exact ⟨⟨t, e, hs⟩, by decide +kernel, by decide +kernel, by decide +kernel, fun _ _ _ => unpack_next _⟩

/-- The token of W1 with its sum byte 0xba changed to 0x73, which is accepted (V-UP-12, V-UP-16). -/
def tokenW1 : ByteSeq :=
  bytesOf 31 0x40626139353832613338336337643665373963643564386337316637333437

theorem witness_SumByteTamperOutcome :
    (∃ t, exec (.unpack tokenW1 []) exState = .next t ∧ t.rspStatus = Status.ok.code) ∧
    Reference.unhex exState.par.hexAcceptUpper tokenW1.tail =
      some (0xba#8 :: bytesOf 14 0x9582a383c7d6e79cd5d8c71f7347) ∧
    isHexDigit exState.par 0x37#8 = true ∧ isHexDigit exState.par 0x33#8 = true ∧
    0x73#8 = 16#8 * hexVal 0x37#8 + hexVal 0x33#8 ∧ (0x73#8 : Byte) ≠ 0xba#8 ∧
    (∃ v, exec (.unpack ((tokenW1.set 1 0x37#8).set 2 0x33#8) []) exState = .next v ∧ v.rspStatus = Status.ok.code) ∧
    ∃ v, exec (.unpack ((tokenW1.set 1 0x62#8).set 2 0x62#8) []) exState = .next v := by
  have h : Answers (.unpack tokenW1 []) exState 0x00#8 (bytesOf 14 0x3132332e312e322e333a31323334) := by
    refine answers_unpack (st := .ok) (exState_within _) ?_
    rw [validate_evaluated _ _ 0xba#8 (bytesOf 14 0x9582a383c7d6e79cd5d8c71f7347)
      (bytesOf 14 0x3132332e312e322e333a31323334) (by decide +kernel) (by decide +kernel) (by decide +kernel)
      (by decide +kernel)]
    decide +kernel
  have hv := test_unpack_collision
  rw [show bytesOf 31 0x40373339353832613338336337643665373963643564386337316637333437 =
    (tokenW1.set 1 0x37#8).set 2 0x33#8 by decide +kernel] at hv
  obtain ⟨t, e, hs, _⟩ := h
  obtain ⟨v, ev, hvs, _⟩ := hv
  exact ⟨⟨t, e, hs⟩, by decide +kernel, by decide, by decide, by decide, by decide, ⟨v, ev, hvs⟩, unpack_next _⟩

theorem witness_TokenLengthLaw :
    (∃ t, exec (.pack (zeros 1) []) exState = .next t ∧ t.rspStatus = Status.ok.code) ∧
    Answers (.unpack (made 0x00#8 (zeros 9)) []) exState Status.ok.code (zeros 9) ∧
    Answers (.unpack (made 0x01#8 (zeros 9)) []) exState Status.checksumMismatch.code [] ∧
    (markedZeros 19).length = 20 ∧ ∃ t, exec (.unpack (markedZeros 19) []) exState = .next t := by
  refine ⟨?_, (answers_made _ _ (by decide)).1 (by decide), (answers_made _ _ (by decide)).2 (by decide), by decide,
    unpack_next _⟩
  refine ⟨_, exec_answer _ _, ?_⟩
  rw [Reference.answer_outcome (exState_within _) (nil_within _) (by decide)]
  rfl

theorem witness_UpperCaseDigitsFollowTheParameter :
    (exState.par.hexAcceptUpper = true ∧
      List.Forall₂ (fun c d : Byte => c = d ∨ (0x61 ≤ c.toNat ∧ c.toNat ≤ 0x66 ∧ d.toNat = c.toNat - 0x20))
        [0x30#8, 0x61#8, 0x66#8] [0x30#8, 0x41#8, 0x46#8] ∧
      (∃ t, exec (.unpack [0x40#8, 0x30#8, 0x61#8, 0x66#8] []) exState = .next t) ∧
      ∃ v, exec (.unpack [0x40#8, 0x30#8, 0x41#8, 0x46#8] []) exState = .next v) ∧
    lowerState.par.hexAcceptUpper = false ∧ lowerState.par.Within (markedZeros 19 ++ [0x46#8]).length ∧
    20 ≤ (markedZeros 19 ++ [0x46#8]).length ∧ (markedZeros 19 ++ [0x46#8]).head? = some 0x40#8 ∧
    0x46#8 ∈ (markedZeros 19 ++ [0x46#8]).tail ∧ 0x41#8 ∈ (markedZeros 19 ++ [0x41#8]).tail ∧
    0x41 ≤ (0x41#8 : Byte).toNat ∧ (0x46#8 : Byte).toNat ≤ 0x46 := by
  refine ⟨⟨rfl, ?_, unpack_next _, unpack_next _⟩, rfl, ex_within false _, by decide⟩
  exact .cons (.inl rfl) (.cons (.inr (by decide)) (.cons (.inr (by decide)) .nil))

theorem witness_LeafCommandsComposeToPack : zeros 1 ≠ [] ∧ smallState.par.Within (zeros 21).length ∧ zeros 21 ≠ [] := by
  simp only [zeros_within]
  decide

theorem witness_DecryptUndoesEncrypt :
    smallState.Ready ∧ (zeros 13).length = 13 ∧ smallState.par.Within (zeros 21).length ∧ (zeros 21).length < 2 ^ 32 ∧
    smallState.par.Within (zeros 0).length := by
  simp only [zeros_within]
  exact ⟨⟨rfl, rfl, rfl⟩, by decide, by decide, by decide, by decide⟩

theorem witness_PseudoCommandsKeyofAndRoundtrip :
    smallState.Ready ∧ smallState.par.Within (zeros 0).length ∧ (zeros 0).length < 2 ^ 32 ∧
    9 ≤ (zeros 9).length ∧ smallState.par.Within (3 + 2 * (zeros 9).length) ∧ 3 + 2 * (zeros 9).length < 2 ^ 32 := by
  simp only [small_within]
  exact ⟨⟨rfl, rfl, rfl⟩, by decide, by decide, by decide, by decide, by decide⟩

/-! ## Witnesses: invariants -/

theorem nothing_buffered (p : Params) : p.Within Work.reset.pay.length ∧ p.Within Work.reset.ct.length ∧
    p.Within Work.reset.pt.length ∧ p.Within Work.reset.out.length :=
  ⟨nil_within p, nil_within p, nil_within p, nil_within p⟩

/-- A BUSY block with a whole request. -/
theorem running_inv : (running csumA exState).Inv where
  idle_holds_nothing h := by cases h
  busy_holds_one _ := .inl ⟨csumA, rfl, rfl, rfl⟩
  reset_holds h := by cases h
  status_legal := rfl
  error_empty _ := rfl
  buffers_fit := nothing_buffered _

/-- A BUSY block with the front of a frame. -/
def stuck : State :=
  { exState with ctl := .busy, rx := [0x01#8] }

theorem stuck_inv : stuck.Inv where
  idle_holds_nothing h := by cases h
  busy_holds_one _ := .inr ⟨rfl, by decide, by decide⟩
  reset_holds h := by cases h
  status_legal := rfl
  error_empty _ := rfl
  buffers_fit := nothing_buffered _

theorem witness_StepKeepsInvariant :
    (running csumA exState).Inv ∧ (∃ t, step (running csumA exState) = .next t) ∧
    (stuck.hostSend [0x00#8]).Inv ∧ ∃ t, step (stuck.hostSend [0x00#8]) = .next t :=
  ⟨running_inv, ⟨_, rfl⟩, ⟨stuck_inv.1, stuck_inv.2, stuck_inv.3, stuck_inv.4, stuck_inv.5, stuck_inv.6⟩, ⟨_, rfl⟩⟩

theorem witness_HostActsKeepInvariant : (running csumA exState).Inv ∧ stuck.Inv :=
  ⟨running_inv, stuck_inv⟩

theorem witness_OnlyAPartialFrameStops :
    (running csumA exState).Inv ∧ stuck.Inv ∧ step stuck = .fault .partialFrame :=
  ⟨running_inv, stuck_inv, rfl⟩

theorem witness_RuleEndRegisters :
    (csumReply exState.par [] [] Work.reset).status = .ok ∧ (deriveReply exState.par [0x1e#8] [] Work.reset).status = .ok ∧
    (xformReply exState.par (zeros 13) [] Work.reset).status = .ok ∧
    (packReply exState.par [0x61#8] [] Work.reset).status = .ok ∧
    (unpackReply exState.par (made 0x00#8 (zeros 9)) [] Work.reset).status = .ok := by
  refine ⟨rfl, rfl, ?_, (packReply_ok _ _ _ _ rfl rfl).1, ?_⟩
  · have h := xformReply_answer exState.par (zeros 13) [] Work.reset
    rw [Reference.answer_outcome (exState_within _) (nil_within _) rfl, Reference.outcome, Reply.answer] at h
    exact (Prod.mk.inj h).1
  have h := unpackReply_answer exState.par (made 0x00#8 (zeros 9)) [] Work.reset
  have hv : Reference.validate exState.par (made 0x00#8 (zeros 9)) = (.ok, zeros 9) :=
    (Reference.validate_made exState.par 0x00#8 (zeros 9) (by decide)).trans (if_pos (by decide))
  have ha : Reference.answer exState.par (.unpack (made 0x00#8 (zeros 9)) []) = (.ok, zeros 9) :=
    (Reference.answer_outcome (exState_within _) (nil_within _) rfl).trans hv
  rw [ha, Reply.answer] at h
  exact (Prod.mk.inj h).1

end Sys2Proof.Tests
end

