-- ==== Sys2Proof/Proofs/DigitCase.lean ====
section
/-!
SUPPORT. The case of hex digits: with HEX_ACCEPT_UPPER a token and its upper-case spelling have the same answer, without it
an upper-case digit is no digit (00_scope.md R12, 30_encoding.md R66, 43_codec.md R123).
-/

namespace Sys2Proof.Reference

open Sys2Proof.Machine

/-- `d` is `c`, or the upper-case spelling of the digit `c` of `a`..`f` (R66). -/
def UpperSpelling (c d : Byte) : Prop :=
  c = d ∨ (0x61 ≤ c.toNat ∧ c.toNat ≤ 0x66 ∧ d.toNat = c.toNat - 0x20)

/-- The two alphabets have each value at the same place. -/
theorem digitValue_upper (c : Byte) (h : isLowerDigit c = true) :
    digitValue true (c - 0x20#8) = digitValue true c := by
  revert c
  decide +kernel

theorem digitValue_upperSpelling {c d : Byte} (h : UpperSpelling c d) : digitValue true c = digitValue true d := by
  obtain rfl | ⟨h1, h2, hd⟩ := h
  · rfl
  · have e : d = c - 0x20#8 := by bv_omega
    have hc : isLowerDigit c = true := by simp [isLowerDigit, BitVec.le_def, h1, h2]
    rw [e, digitValue_upper c hc]

theorem unhex_upperSpelling {x y : ByteSeq} (h : List.Forall₂ UpperSpelling x y) : unhex true x = unhex true y := by
  match x, y, h with
  | _, _, .nil => rfl
  | _, _, .cons _ .nil => rfl
  | _, _, .cons ha (.cons hb hr) =>
    rw [unhex, unhex, digitValue_upperSpelling ha, digitValue_upperSpelling hb, unhex_upperSpelling hr]

/-- Two byte sequences with the same first byte, if any, and tails of one length have one length. -/
theorem length_eq_of_head_tail {x y : ByteSeq} (hh : x.head? = y.head?) (ht : x.tail.length = y.tail.length) :
    x.length = y.length := by
  match x, y, hh, ht with
  | [], [], _, _ => rfl
  | _ :: _, _ :: _, _, ht => exact congrArg (· + 1) ht

variable {p : Params} {x y : ByteSeq}

/-- UNPACK sees of a token its length, its first byte and what its digits decode to. -/
theorem validate_congr (hl : x.length = y.length) (hh : x.head? = y.head?)
    (hu : unhex p.hexAcceptUpper x.tail = unhex p.hexAcceptUpper y.tail) : validate p x = validate p y := by
  rw [validate, validate, hl, hh, hu]

theorem answer_unpack (p : Params) (a b : ByteSeq) :
    answer p (.unpack a b) =
      if overlong p a.length || overlong p b.length then (.overlength, [])
      else if b != [] then (.badOperand, [])
      else validate p a :=
  rfl

theorem answer_unpack_congr (hl : x.length = y.length) (hv : validate p x = validate p y) (b : ByteSeq) :
    answer p (.unpack x b) = answer p (.unpack y b) := by
  rw [answer_unpack, answer_unpack, hl, hv]

theorem answer_unpack_upperSpelling (hp : p.hexAcceptUpper = true) (hh : x.head? = y.head?)
    (ht : List.Forall₂ UpperSpelling x.tail y.tail) (b : ByteSeq) :
    answer p (.unpack x b) = answer p (.unpack y b) := by
  have hl := length_eq_of_head_tail hh ht.length_eq
  have hu : unhex p.hexAcceptUpper x.tail = unhex p.hexAcceptUpper y.tail := by rw [hp, unhex_upperSpelling ht]
  exact answer_unpack_congr hl (validate_congr hl hh hu) b

/-- Without HEX_ACCEPT_UPPER the bytes `A`..`F` are no digits (R12, R121). -/
theorem isHexDigit_upper_false (hp : p.hexAcceptUpper = false) {c : Byte} (h1 : 0x41 ≤ c.toNat) (h2 : c.toNat ≤ 0x46) :
    isHexDigit p c = false := by
  have hd : isDecimalDigit c = false := by simp [isDecimalDigit, BitVec.le_def]; omega
  have hl : isLowerDigit c = false := by simp [isLowerDigit, BitVec.le_def]; omega
  rw [isHexDigit, hd, hl, hp, Bool.false_and, Bool.or_false, Bool.or_false]

theorem validate_upper_refused (hp : p.hexAcceptUpper = false) (hl : 20 ≤ x.length) (hh : x.head? = some 0x40#8)
    {c : Byte} (hc : c ∈ x.tail) (h1 : 0x41 ≤ c.toNat) (h2 : c.toNat ≤ 0x46) :
    validate p x = (.badEncoding, []) :=
  validate_encoding p hl hh ((unhex_none_iff p x.tail).mpr (.inr ⟨c, hc, isHexDigit_upper_false hp h1 h2⟩))

end Sys2Proof.Reference

namespace Sys2Proof.Machine

/-- Settles O49: the answer depends on the digits through their values alone, and without HEX_ACCEPT_UPPER an upper-case
digit fails stage 3 of UNPACK. -/
theorem upperCaseDigitsFollowTheParameter : Obligations.UpperCaseDigitsFollowTheParameter := by
  constructor
  · intro tok tok' s t v hp hh ht et ev
    have ha := Reference.answer_unpack_upperSpelling hp hh ht []
    rw [exec_answer] at et ev
    cases et
    cases ev
    simp only [complete_rspStatus, complete_rspR, ha, and_self]
  · rintro tok s hp hw hl hh ⟨c, hc, h1, h2⟩
    have ha : Reference.answer s.par (.unpack tok []) = (.badEncoding, []) :=
      (Reference.answer_outcome hw (nil_within _) rfl).trans (Reference.validate_upper_refused hp hl hh hc h1 h2)
    rw [exec_answer, ha]

end Sys2Proof.Machine
end

/-!
SUPPORT. The state and its invariant: what a step, a command and the host's acts change and leave (10_state.md R21 to R23,
R30, R31, R33; 30_encoding.md R60; 70_reset_and_hazards.md R170, R174).
-/

namespace Sys2Proof.Machine

/-! ## Executing a latched request -/

/-- What executing a latched request does, said once: it completes with the request's closed-form answer (R22, R62). -/
theorem executeLatched_answer (r : Request) (s : State) :
    executeLatched r s =
      .next (s.complete (Reference.answerRequest s.par r).1 (Reference.answerRequest s.par r).2) := by
  rw [executeLatched, Reference.answerRequest]
  cases decodeRequest r with
  | none => rfl
  | some i => exact exec_answer i s

theorem step_executing_answer {s : State} {r : Request} (h : s.Executing r) :
    step s = .next (s.complete (Reference.answerRequest s.par r).1 (Reference.answerRequest s.par r).2) :=
  (step_executing h).trans (executeLatched_answer r s)

/-- A command's rule replies, and only a reply with status OK has a result (R64). -/
theorem exec_sound (i : Instr) (s : State) : ∃ rep : Reply, rep.Sound ∧ exec i s = s.respond rep := by
  cases i with
  | csum a b => exact ⟨_, csumReply_sound s.par a b s.work, rfl⟩
  | derive a b => exact ⟨_, deriveReply_sound s.par a b s.work, rfl⟩
  | xform a b => exact ⟨_, xformReply_sound s.par a b s.work, rfl⟩
  | pack a b => exact ⟨_, packReply_sound s.par a b s.work, rfl⟩
  | unpack a b => exact ⟨_, unpackReply_sound s.par a b s.work, rfl⟩

theorem executeLatched_sound (r : Request) (s : State) :
    ∃ rep : Reply, rep.Sound ∧ executeLatched r s = s.respond rep := by
  rw [executeLatched]
  cases decodeRequest r with
  | none => exact ⟨_, raiseStatus_sound .illegalCommand s.work, rfl⟩
  | some i => exact exec_sound i s

/-! ## The status codes -/

@[simp] theorem statusLegal_code (st : Status) : statusLegal st.code = true := by
  cases st <;> rfl

theorem statusLegal_iff (b : Byte) : statusLegal b = true ↔ b.toNat ≤ 4 ∨ (0x10 ≤ b.toNat ∧ b.toNat ≤ 0x12) := by
  simp [statusLegal, BitVec.le_def]

/-- The statuses of R64, in the order of their codes. -/
def Status.all : List Status :=
  [.ok, .tooShort, .badPrefix, .badEncoding, .checksumMismatch, .illegalCommand, .badOperand, .overlength]

theorem Status.mem_all (st : Status) : st ∈ Status.all := by
  cases st <;> decide

/-- The codes of the statuses are exactly the legal values of RSP_STATUS (R31, R64). -/
theorem exists_code_iff (b : Byte) : (∃ st : Status, st.code = b) ↔ statusLegal b = true := by
  have legal : ∀ b : Byte, statusLegal b = true → ∃ st ∈ Status.all, st.code = b := by decide +kernel
  constructor
  · rintro ⟨st, rfl⟩
    exact statusLegal_code st
  · intro h
    obtain ⟨st, -, e⟩ := legal b h
    exact ⟨st, e⟩

/-- Each status has a code of its own (R64). -/
theorem code_injective : Function.Injective Status.code := by
  have distinct : ∀ st ∈ Status.all, ∀ st' ∈ Status.all, st.code = st'.code → st = st' := by decide
  exact fun st st' => distinct st st.mem_all st' st'.mem_all

/-! ## The invariant -/

/-- The invariant does not look at what waits at the two ports. -/
theorem inv_with_ports {s : State} (h : s.Inv) (inp out : ByteSeq) : { s with reqIn := inp, rspOut := out }.Inv where
  idle_holds_nothing := h.idle_holds_nothing
  busy_holds_one := h.busy_holds_one
  reset_holds := h.reset_holds
  status_legal := h.status_legal
  error_empty := h.error_empty
  buffers_fit := h.buffers_fit

/-- The reset values meet the invariant, whatever the reset input, the ports and the counter of free values hold. -/
theorem resetWith_inv (p : Params) (level : Bool) (inp out : ByteSeq) (k : Nat) :
    { State.resetWith p with rst := level, reqIn := inp, rspOut := out, draw := k }.Inv where
  idle_holds_nothing _ := ⟨rfl, rfl⟩
  busy_holds_one h := by cases h
  reset_holds _ := ⟨rfl, rfl⟩
  status_legal := statusLegal_code .ok
  error_empty _ := rfl
  buffers_fit := ⟨nil_within p, nil_within p, nil_within p, nil_within p⟩

theorem underReset_inv (s : State) : s.underReset.Inv :=
  resetWith_inv s.par true s.reqIn s.rspOut s.draw

theorem setReset_inv {s : State} (h : s.Inv) (level : Bool) : (s.setReset level).Inv := by
  obtain ⟨-, e⟩ | ⟨-, -, e⟩ | ⟨-, -, e⟩ := setReset_cases level s <;> rw [e]
  · exact underReset_inv s
  · exact resetWith_inv s.par false s.reqIn s.rspOut s.draw
  · exact h

/-- A block outside reset that goes to BUSY with one request, whole or in part, meets the invariant (R22, R60). -/
theorem busy_inv {s : State} (h : s.Inv) (hr : s.rst = false) {l : Option Request} {rx inp : ByteSeq}
    (hl : (∃ r, l = some r ∧ r.wf = true ∧ rx = []) ∨ (l = none ∧ rx ≠ [] ∧ parseFrame rx = none)) :
    { s with ctl := .busy, latch := l, rx := rx, reqIn := inp }.Inv where
  idle_holds_nothing hc := by cases hc
  busy_holds_one _ := hl
  reset_holds hs := by cases hr.symm.trans hs
  status_legal := h.status_legal
  error_empty := h.error_empty
  buffers_fit := h.buffers_fit

theorem take_inv {s : State} (h : s.Inv) (hr : s.rst = false) {bs : ByteSeq} (hbs : bs ≠ []) : (s.take bs).Inv := by
  obtain ⟨r, rest, hp, e⟩ | ⟨hp, e⟩ := take_cases bs s <;> rw [e]
  · exact busy_inv h hr (.inl ⟨r, rfl, (parseFrame_some hp).1, rfl⟩)
  · exact busy_inv h hr (.inr ⟨rfl, hbs, hp⟩)

/-- A block executing a request has no bytes of another frame (R60). -/
theorem rx_of_executing {s : State} {r : Request} (h : s.Inv) (he : s.Executing r) : s.rx = [] := by
  obtain ⟨-, hc, hl⟩ := he
  obtain ⟨_, _, _, hx⟩ | ⟨hn, _⟩ := h.busy_holds_one hc
  · exact hx
  · rw [hl] at hn; cases hn

/-- A completion whose result is empty unless its status is OK meets the invariant (R22, R31, R64). -/
theorem complete_inv {s : State} (hr : s.rst = false) (hx : s.rx = []) {st : Status} {x : ByteSeq}
    (hs : st ≠ .ok → x = []) : (s.complete st x).Inv where
  idle_holds_nothing _ := ⟨rfl, hx⟩
  busy_holds_one h := by cases h
  reset_holds h := by cases hr.symm.trans h
  status_legal := statusLegal_code st
  error_empty h := hs fun e => h (congrArg Status.code e)
  buffers_fit := ⟨capBuffer_within _ _, capBuffer_within _ _, capBuffer_within _ _, capBuffer_within _ _⟩

/-- Settles O53, by the five cases of a step. -/
theorem stepKeepsInvariant : Obligations.StepKeepsInvariant := by
  intro s t hi hs
  obtain ⟨-, rfl⟩ | ⟨-, -, -, rfl⟩ | ⟨hr, -, hn, rfl⟩ | ⟨hr, -, -, hn, rfl⟩ | ⟨q, hq, he⟩ := step_next_cases hs
  · exact underReset_inv s
  · exact hi
  · exact take_inv hi hr hn
  · exact take_inv hi hr (List.append_ne_nil_of_right_ne_nil _ hn)
  · obtain ⟨rep, hrep, e⟩ := executeLatched_sound q s
    rw [e] at he
    cases he
    exact complete_inv hq.1 (rx_of_executing hi hq) hrep

/-- Settles O54: the reset values are the invariant's first state. -/
theorem resetMeetsInvariant : Obligations.ResetMeetsInvariant :=
  ⟨resetWith_inv Config.params false [] [] 0, fun p => resetWith_inv p false [] [] 0⟩

/-- Settles O55: two acts touch the ports alone, and the reset input gives the reset values or nothing new. -/
theorem hostActsKeepInvariant : Obligations.HostActsKeepInvariant := fun s bs level hi =>
  ⟨inv_with_ports hi (s.reqIn ++ bs) s.rspOut, inv_with_ports hi s.reqIn [], setReset_inv hi level⟩

/-- Settles O57, status by status. -/
theorem statusRegisterFields : Obligations.StatusRegisterFields := by
  refine ⟨fun b => (exists_code_iff b).trans (statusLegal_iff b), ?_, fun _ _ h => code_injective h, ?_⟩
  · intro st
    cases st <;> rfl
  · decide

/-! ## What a step does at the ports -/

@[simp] theorem take_par (bs : ByteSeq) (s : State) : (s.take bs).par = s.par := by
  obtain ⟨_, _, _, e⟩ | ⟨_, e⟩ := take_cases bs s <;> rw [e]

/-- Completing a command and sending bytes meanwhile come to the same in either order (R174). -/
theorem complete_hostSend (st : Status) (x bs : ByteSeq) (s : State) :
    (s.hostSend bs).complete st x = (s.complete st x).hostSend bs := rfl

theorem hostSend_executing {s : State} {r : Request} (h : s.Executing r) (bs : ByteSeq) :
    (s.hostSend bs).Executing r := h

/-- LENR is four bytes, whatever the result (R60). -/
@[simp] theorem lengthField_length (x : ByteSeq) : (lengthField x).length = 4 := by
  rw [lengthField]
  split <;> rfl

theorem lengthField_fits {x : ByteSeq} (h : x.length < 2 ^ 32) : lengthField x = be32Bytes x.length :=
  if_pos h

/-- Settles O8: the frame at the head of the port parses to its request and the bytes after it. -/
theorem idleBlockLatchesTheRequest : Obligations.IdleBlockLatchesTheRequest := by
  intro s r rest hr hc hw hin
  have hne : s.reqIn ≠ [] := by simp [hin, requestFrame_ne_nil]
  have hp : parseFrame s.reqIn = some (r, rest) := hin ▸ parseFrame_requestFrame r rest hw
  rw [step_idle hr hc, State.idleStep, if_neg hne, take_of_parse hp]

/-- Settles O9: the step of an executing block is the latched request's execution. -/
theorem stepRunsTheDecodedCommand : Obligations.StepRunsTheDecodedCommand := by
  intro s r i he hd
  rw [step_executing he, executeLatched, hd]

/-- Settles O10: the frame is latched (O8), and its request decodes back to the command (O9). -/
theorem frameAtThePortIsExecuted : Obligations.FrameAtThePortIsExecuted := by
  intro s i rest hr hc hw hin
  exact ⟨_, idleBlockLatchesTheRequest s i.request rest hr hc hw hin, rfl,
    stepRunsTheDecodedCommand _ i.request i ⟨hr, rfl, rfl⟩ (decodeRequest_request i)⟩

/-- Settles O13: completing commutes with sending, and leaves the bytes on the port. -/
theorem bytesSentWhileBusyWait : Obligations.BytesSentWhileBusyWait := by
  intro s t r bs he hs
  rw [step_executing_answer he] at hs
  cases hs
  refine ⟨?_, complete_reqIn _ _ s⟩
  rw [step_executing_answer (hostSend_executing he bs), hostSend_par, complete_hostSend]

/-- Settles O15: each value is the one that `State.resetWith` writes. -/
theorem resetStateIsIdle : Obligations.ResetStateIsIdle :=
  ⟨fun _ => ⟨rfl, rfl, rfl, rfl, rfl⟩, rfl, rfl, rfl⟩

/-- Settles O16, by the five cases of a step. -/
theorem stepNeverWritesMagic : Obligations.StepNeverWritesMagic := by
  intro s t hs
  obtain ⟨-, rfl⟩ | ⟨-, -, -, rfl⟩ | ⟨-, -, -, rfl⟩ | ⟨-, -, -, -, rfl⟩ | ⟨q, -, he⟩ := step_next_cases hs
  · exact underReset_par s
  · rfl
  · exact take_par _ s
  · exact take_par _ s
  · obtain ⟨st, x, e⟩ := executeLatched_completes q s
    rw [e] at he
    cases he
    exact complete_par st x s

/-- Settles O23: every command completes, and the completion's frame is the claim. -/
theorem commandFrame : Obligations.CommandFrame := by
  intro i s t he
  obtain ⟨st, x, e⟩ := exec_completes i s
  rw [e] at he
  cases he
  refine ⟨rfl, rfl, rfl, rfl, rfl, rfl, rfl, rfl, fun hx => ?_, lengthField x, lengthField_length x, rfl⟩
  rw [complete_rspOut, responseFrame, lengthField_fits (x := x) hx]
  rfl

/-- Settles O39: both blocks complete with the request's answer under the same parameters. -/
theorem responseIgnoresWorkingState : Obligations.ResponseIgnoresWorkingState := by
  intro r s u hs hu hp
  refine ⟨_, _, Reference.answerFrame s.par r, step_executing_answer hs, step_executing_answer hu, ?_, ?_, rfl, ?_⟩
  · rw [complete_rspStatus, complete_rspStatus, hp]
  · rw [complete_rspR, complete_rspR, hp]
  · rw [hp]; rfl

end Sys2Proof.Machine

/-!
SUPPORT. The registers where a rule that ends OK ends (10_state.md R24 to R29; the rules R80, R90, R103, R122, R123).
-/

namespace Sys2Proof.Machine

/-! ## The registers where a rule ends -/

/-- A rule that ends OK has passed its two checks. -/
theorem checks_of_ok {long broken : Bool} {w : Work} {good : Reply}
    (h : (if long then raiseStatus .overlength w else if broken then raiseStatus .badOperand w else good).status = .ok) :
    broken = false ∧
      (if long then raiseStatus .overlength w else if broken then raiseStatus .badOperand w else good) = good := by
  cases long with
  | true => cases h
  | false =>
    cases broken with
    | true => cases h
    | false => exact ⟨rfl, rfl⟩

section Rules

variable {p : Params} {a b : ByteSeq} {w : Work}

theorem csumReply_of_ok (h : (csumReply p a b w).status = .ok) :
    csumReply p a b w = reply [(w.checksum a).acc] (w.checksum a) :=
  (checks_of_ok h).2

theorem deriveReply_of_ok (h : (deriveReply p a b w).status = .ok) :
    deriveReply p a b w =
      reply (w.deriveKey p (a.getD 0 0#8)).key.toList (w.deriveKey p (a.getD 0 0#8)) :=
  (checks_of_ok h).2

theorem xformReply_of_ok (h : (xformReply p a b w).status = .ok) :
    a.length = 13 ∧
      xformReply p a b w = reply ((w.loadKey a).transform b).out ((w.loadKey a).transform b) := by
  obtain ⟨hs, e⟩ := checks_of_ok h
  exact ⟨by simpa [xformShape] using hs, e⟩

theorem verifyStage_of_ok (h : (verifyStage w).status = .ok) :
    Reference.checksum w.pt = w.sumb ∧ verifyStage w = reply w.pt (w.checksum w.pt) := by
  unfold verifyStage at h ⊢
  dsimp only at h ⊢
  simp only [checksum_eq] at h ⊢
  split at h
  · cases h
  · next e => exact ⟨not_not.mp e, if_neg e⟩

/-- The registers after stages 4 and 5 on a payload that verifies (R123). -/
theorem decryptStage_registers {c : Byte} {ct : ByteSeq} (hp : w.pay = c :: ct) (h : (decryptStage p w).status = .ok) :
    (decryptStage p w).work.pay = c :: ct ∧ (decryptStage p w).work.sumb = c ∧ (decryptStage p w).work.ct = ct ∧
    (decryptStage p w).work.key.toList = Reference.key p c ∧
    (decryptStage p w).work.pt = (decryptStage p w).result ∧ (decryptStage p w).work.acc = c := by
  unfold decryptStage at h ⊢
  obtain ⟨hv, e⟩ := verifyStage_of_ok h
  rw [e]
  simp only [hp, transform_sumb, deriveKey_sumb, List.getD_cons_zero, List.drop_succ_cons, List.drop_zero] at hv
  simp [reply, checksum_eq, deriveKey_key, hp, hv]

theorem hexSyntaxStage_of_ok {h : ByteSeq} (hok : (hexSyntaxStage p h w).status = .ok) :
    ∃ w1 : Work, Reference.unhex p.hexAcceptUpper h = some w1.pay ∧ hexSyntaxStage p h w = decryptStage p w1 := by
  unfold hexSyntaxStage at hok ⊢
  split at hok
  · cases hok
  · next he =>
    dsimp only at hok ⊢
    split at hok
    · next hd =>
      rw [if_neg he, if_pos hd]
      refine ⟨_, ?_, rfl⟩
      rw [scanAll_fst] at hd
      rw [Reference.unhex_eq, if_pos ⟨not_not.mp he, hd⟩, hexDecode_eq]
    · cases hok

/-- A token that UNPACK accepts passes stages 1 to 3, and its digits' bytes go to stage 4 (R123). -/
theorem unpackReply_of_ok (h : (unpackReply p a b w).status = .ok) :
    20 ≤ a.length ∧ ∃ w1 : Work, Reference.unhex p.hexAcceptUpper a.tail = some w1.pay ∧
      unpackReply p a b w = decryptStage p w1 := by
  have e : unpackReply p a b w = unpackStages p a w := (checks_of_ok h).2
  rw [e] at h ⊢
  unfold unpackStages at h ⊢
  split at h
  · cases h
  · next hl =>
    rw [if_neg hl]
    unfold prefixStage at h ⊢
    split at h
    · cases h
    · next hm =>
      rw [if_neg hm]
      rw [List.drop_one] at h ⊢
      exact ⟨Nat.not_lt.mp hl, hexSyntaxStage_of_ok h⟩

theorem packReply_registers (h : (packReply p a b w).status = .ok) :
    (packReply p a b w).work.sumb = Reference.checksum a ∧
    (packReply p a b w).work.key.toList = Reference.key p (Reference.checksum a) ∧
    (packReply p a b w).work.ct = Reference.transform (Reference.key p (Reference.checksum a)) a ∧
    (packReply p a b w).result = marker :: (packReply p a b w).work.out := by
  have e : packReply p a b w = _ := (checks_of_ok h).2
  rw [e]
  simp [reply, hexEncode_eq, checksum_eq, deriveKey_key, transform_out]

end Rules

/-- Settles O59: each rule that ends OK ended in its last line, and the registers there are those its steps left. -/
theorem ruleEndRegisters : Obligations.RuleEndRegisters := by
  refine ⟨?csum, ?derive, ?xform, fun _ _ _ _ h => packReply_registers h, ?unpack⟩
  case csum =>
    intro p a b w h
    rw [csumReply_of_ok h, reply, checksum_eq]
  case derive =>
    intro p a b w h
    rw [deriveReply_of_ok h, reply, deriveKey_key]
    cases a <;> rfl
  case xform =>
    intro p a b w h
    obtain ⟨ha, e⟩ := xformReply_of_ok h
    rw [e]
    simp only [reply, transform_key, transform_out, loadKey_key a ha, Reference.transform, and_self]
  case unpack =>
    intro p a b w h
    obtain ⟨hl, w1, hx, e⟩ := unpackReply_of_ok h
    obtain ⟨c, ct, hp, -⟩ := Reference.payload_of_digits p hl hx
    rw [e] at h ⊢
    obtain ⟨hpay, hsumb, hct, hkey, hpt, hacc⟩ := decryptStage_registers hp h
    rw [hpay, hsumb, hct, hacc, hx, hp]
    exact ⟨rfl, rfl, hkey, hpt, rfl⟩

end Sys2Proof.Machine

/-!
SUPPORT. The ports as streams of frames: the byte order of the length fields (20_memory.md R43), and requests executed one
after another, waiting on the port or sent one at a time (20_memory.md R45, R47; 10_state.md R22, R30).
-/

namespace Sys2Proof

/-! ## The length fields -/

/-- A length that fits its field is four bytes, each with the weight of its place (R43). -/
theorem be32Bytes_value {n : Nat} (h : n < 2 ^ 32) : ∃ b3 b2 b1 b0 : Byte, be32Bytes n = [b3, b2, b1, b0] ∧
    n = b3.toNat * 2 ^ 24 + b2.toNat * 2 ^ 16 + b1.toNat * 2 ^ 8 + b0.toNat := by
  refine ⟨_, _, _, _, rfl, ?_⟩
  have hn := be32_of_bytes n h
  unfold be32 at hn
  omega

theorem Request.wf_iff (r : Request) : r.wf = true ↔ r.a.length < 2 ^ 32 ∧ r.b.length < 2 ^ 32 := by
  simp only [Request.wf, lengthFits, Bool.and_eq_true, decide_eq_true_eq]

/-- LENA stands after the opcode byte (R60). -/
theorem requestFrame_take (r : Request) : (requestFrame r).take 5 = r.op :: be32Bytes r.a.length := by
  simp [requestFrame, List.take_append]

/-- LENB stands after the opcode byte, LENA and A (R60). -/
theorem requestFrame_drop_take (r : Request) :
    ((requestFrame r).drop (5 + r.a.length)).take 4 = be32Bytes r.b.length := by
  have parts : requestFrame r = (r.op :: (be32Bytes r.a.length ++ r.a)) ++ (be32Bytes r.b.length ++ r.b) := by
    simp [requestFrame]
  have front : (r.op :: (be32Bytes r.a.length ++ r.a)).length = 5 + r.a.length := by
    simp; omega
  rw [parts, List.drop_left' front, List.take_left' (be32Bytes_length _)]

end Sys2Proof

namespace Sys2Proof.Machine

/-- Settles O5: each field is `be32Bytes` of its length, and those four bytes have the length as their value. -/
theorem lengthFieldsAreBigEndian : Obligations.LengthFieldsAreBigEndian := by
  refine ⟨fun r hw => ?lenA, fun r hw => ?lenB, fun st x hx => ?lenR⟩
  case lenA =>
    obtain ⟨b3, b2, b1, b0, hb, hn⟩ := be32Bytes_value (r.wf_iff.mp hw).1
    exact ⟨b3, b2, b1, b0, by rw [requestFrame_take, hb], hn⟩
  case lenB =>
    obtain ⟨b3, b2, b1, b0, hb, hn⟩ := be32Bytes_value (r.wf_iff.mp hw).2
    exact ⟨b3, b2, b1, b0, by rw [requestFrame_drop_take, hb], hn⟩
  case lenR =>
    obtain ⟨b3, b2, b1, b0, hb, hn⟩ := be32Bytes_value hx
    exact ⟨b3, b2, b1, b0, by rw [responseFrame, lengthField_fits hx, hb]; rfl, hn⟩

/-! ## One request, from its frame to its response -/

/-- `s` after it has taken the frame of `r`, with `rest` left on the port, and answered it (R22, R60). -/
def State.answered (r : Request) (rest : ByteSeq) (s : State) : State :=
  { s with ctl := .busy, latch := some r, rx := [], reqIn := rest : State }.complete
    (Reference.answerRequest s.par r).1 (Reference.answerRequest s.par r).2

section Answered

variable (r : Request) (rest : ByteSeq) (s : State)

@[simp] theorem answered_par : (s.answered r rest).par = s.par := rfl
@[simp] theorem answered_rst : (s.answered r rest).rst = s.rst := rfl
@[simp] theorem answered_ctl : (s.answered r rest).ctl = .idle := rfl
@[simp] theorem answered_reqIn : (s.answered r rest).reqIn = rest := rfl
@[simp] theorem answered_rspStatus :
    (s.answered r rest).rspStatus = (Reference.answerRequest s.par r).1.code := rfl
@[simp] theorem answered_rspR : (s.answered r rest).rspR = (Reference.answerRequest s.par r).2 := rfl
@[simp] theorem answered_rspOut :
    (s.answered r rest).rspOut = s.rspOut ++ Reference.answerFrame s.par r := rfl

end Answered

/-- An IDLE block takes the frame at the head of its port in one step and answers it in the next (R22). -/
theorem steps_answer {s : State} {r : Request} {rest : ByteSeq} (hr : s.rst = false) (hc : s.ctl = .idle)
    (hw : r.wf = true) (hin : s.reqIn = requestFrame r ++ rest) :
    ∃ u, step s = .next u ∧ step u = .next (s.answered r rest) :=
  ⟨_, idleBlockLatchesTheRequest s r rest hr hc hw hin, step_executing_answer ⟨hr, rfl, rfl⟩⟩

/-! ## Requests waiting on the port -/

/-- Settles O42, by induction on the requests: two steps answer the first and leave the frames of the others. -/
theorem requestsAreAnsweredInOrder : Obligations.RequestsAreAnsweredInOrder := by
  intro rs
  induction rs with
  | nil => exact fun s _ hr hc hin => ⟨s, rfl, ⟨hr, hc, hin⟩, (List.append_nil _).symm⟩
  | cons r rs ih =>
    intro s hw hr hc hin
    obtain ⟨hwr, hws⟩ := List.forall_mem_cons.mp hw
    obtain ⟨u, hsu, hut⟩ := steps_answer hr hc hwr hin
    obtain ⟨t, hrun, ht, hout⟩ := ih (s.answered r (rs.flatMap requestFrame)) hws hr rfl rfl
    refine ⟨t, ?_, ht, ?_⟩
    · exact (core_run_of_next _ hsu).trans ((core_run_of_next _ hut).trans hrun)
    · rw [hout, answered_rspOut, answered_par, List.append_assoc]
      rfl

/-! ## Requests sent one at a time -/

/-- A ready block answers the request a host sends it, and is left with an empty port (R174). -/
theorem hostRequest_answer {s : State} {r : Request} (hs : s.Ready) (hw : r.wf = true) :
    hostRequest r s = .next (s.answered r []) := by
  obtain ⟨hr, hc, hin⟩ := hs
  have hport : (s.hostSend (requestFrame r)).reqIn = requestFrame r ++ [] := by simp [hin]
  obtain ⟨u, hsu, hut⟩ := steps_answer (s := s.hostSend (requestFrame r)) hr hc hw hport
  rw [hostRequest, hsu]
  exact hut

theorem answered_ready {s : State} (hs : s.Ready) (r : Request) : (s.answered r []).Ready := by
  obtain ⟨hr, -, -⟩ := hs
  simp [State.Ready, hr]

/-- What a host's run of requests on a ready block does, said once: it ends ready, with the same parameters, and every
request has had its reference response (R30, R47, R174). -/
theorem runRequests_answers {rs : List Request} {s : State} (hw : ∀ r ∈ rs, r.wf = true) (hs : s.Ready) :
    ∃ t, runRequests rs s = .next t ∧ t.Ready ∧ t.par = s.par ∧ t.rspOut = s.rspOut ++ Reference.frames s.par rs := by
  induction rs generalizing s with
  | nil => exact ⟨s, rfl, hs, rfl, (List.append_nil _).symm⟩
  | cons r rs ih =>
    obtain ⟨hwr, hws⟩ := List.forall_mem_cons.mp hw
    obtain ⟨t, hrun, ht, hp, hout⟩ := ih hws (answered_ready hs r)
    refine ⟨t, ?_, ht, hp, ?_⟩
    · rw [runRequests, hostRequest_answer hs hwr]
      exact hrun
    · rw [hout, answered_rspOut, answered_par, List.append_assoc]
      rfl

/-- Settles O43: the run of the requests, without its clause on the parameters. -/
theorem oneAtATimeGivesTheSameResponses : Obligations.OneAtATimeGivesTheSameResponses := by
  intro rs s hw hs
  obtain ⟨t, hrun, ht, -, hout⟩ := runRequests_answers hw hs
  exact ⟨t, hrun, ht, hout⟩

/-- Settles O41: a response is a function of the request and the parameters, and no request changes the parameters. -/
theorem repeatedRequestsAnswerAlike : Obligations.RepeatedRequestsAnswerAlike := by
  intro r between s hs hw hbetween
  obtain ⟨u, hrun, hu, hp, -⟩ := runRequests_answers hbetween (answered_ready hs r)
  rw [answered_par] at hp
  refine ⟨s.answered r [], u, u.answered r [], Reference.answerFrame s.par r, hostRequest_answer hs hw, hrun,
    hostRequest_answer hu hw, ?_, ?_, rfl, ?_⟩
  · rw [answered_rspStatus, answered_rspStatus, hp]
  · rw [answered_rspR, answered_rspR, hp]
  · rw [answered_rspOut, hp]

end Sys2Proof.Machine

/-!
SUPPORT. Frames and opcodes: what decodes to a command, where a frame ends, and which opcodes are reserved
(30_encoding.md R60 to R62, R68).
-/

namespace Sys2Proof

/-! ## Frames -/

/-- Bytes parse to a request and a rest exactly when they are its frame and that rest (R60). -/
theorem parseFrame_iff {bs rest : ByteSeq} {r : Request} :
    parseFrame bs = some (r, rest) ↔ r.wf = true ∧ bs = requestFrame r ++ rest := by
  constructor
  · exact parseFrame_some
  · rintro ⟨hw, rfl⟩
    exact parseFrame_requestFrame r rest hw

/-- The front of an incomplete frame is incomplete (R60). -/
theorem parseFrame_none_of_append {front back : ByteSeq} (h : parseFrame (front ++ back) = none) :
    parseFrame front = none := by
  cases hf : parseFrame front with
  | none => rfl
  | some x =>
    rw [parseFrame_append hf back] at h
    cases h

/-- A proper front of a frame is incomplete: a frame in it would leave a rest, and the whole frame leaves none (R60). -/
theorem parseFrame_proper_front {r : Request} {front back : ByteSeq} (hw : r.wf = true)
    (hf : requestFrame r = front ++ back) (hb : back ≠ []) : parseFrame front = none := by
  have whole : parseFrame (front ++ back) = some (r, []) := by
    rw [← hf]
    exact parseFrame_iff.mpr ⟨hw, (List.append_nil _).symm⟩
  cases hp : parseFrame front with
  | none => rfl
  | some x =>
    rw [parseFrame_append hp back] at whole
    simp only [Option.some.injEq, Prod.mk.injEq, List.append_eq_nil_iff] at whole
    exact absurd whole.2.2 hb

/-! ## Commands -/

theorem decodeRequest_iff {r : Request} {i : Instr} : decodeRequest r = some i ↔ r = i.request := by
  constructor
  · exact fun h => (decodeRequest_some h).symm
  · rintro rfl
    exact decodeRequest_request i

/-- What decodes to a command, said once: bytes that parse to the command's request (R60, R61). -/
theorem decode_instr_iff {bs rest : ByteSeq} {i : Instr} :
    decode bs = .instr i rest ↔ parseFrame bs = some (i.request, rest) := by
  unfold decode
  cases parseFrame bs with
  | none => simp
  | some x =>
    obtain ⟨r, tail⟩ := x
    dsimp only
    cases hd : decodeRequest r with
    | none =>
      have hr : r ≠ i.request := by
        rintro rfl
        rw [decodeRequest_request] at hd
        cases hd
      simp [hr]
    | some j =>
      obtain rfl := decodeRequest_iff.mp hd
      have hj : j.request = i.request ↔ j = i := by
        rw [← decodeRequest_iff, decodeRequest_request, Option.some.injEq]
      simp [hj]

theorem Instr.wf_iff (i : Instr) : i.wf = true ↔ i.opA.length < 2 ^ 32 ∧ i.opB.length < 2 ^ 32 :=
  i.request.wf_iff

/-- A command with B empty is well-formed if its A fits the length field (R60). -/
theorem Instr.wf_of_nil {i : Instr} (hb : i.opB = []) (ha : i.opA.length < 2 ^ 32) : i.wf = true :=
  i.wf_iff.mpr ⟨ha, by rw [hb]; decide⟩

/-- The reserved opcodes are those that no command has (R61, R62). -/
theorem decodeRequest_none_iff (r : Request) : decodeRequest r = none ↔ r.op = 0#8 ∨ 6 ≤ r.op.toNat := by
  have unassigned : decodeRequest r = none ↔
      r.op ≠ 0x01#8 ∧ r.op ≠ 0x02#8 ∧ r.op ≠ 0x03#8 ∧ r.op ≠ 0x04#8 ∧ r.op ≠ 0x05#8 := by
    simp [decodeRequest, ite_eq_iff]
  rw [unassigned]
  bv_omega

end Sys2Proof

namespace Sys2Proof.Reference

open Sys2Proof.Machine

@[simp] theorem answerRequest_request (p : Params) (i : Instr) : answerRequest p i.request = answer p i := by
  rw [answerRequest, decodeRequest_request]

theorem answerRequest_of_none {r : Request} (h : decodeRequest r = none) (p : Params) :
    answerRequest p r = (.illegalCommand, []) := by
  rw [answerRequest, h]

/-- No command answers IllegalCommand (R62, R152). -/
theorem answer_ne_illegalCommand (p : Params) (i : Instr) : (answer p i).1 ≠ .illegalCommand := by
  obtain ⟨e, -⟩ | ⟨e, -⟩ | ⟨e, -⟩ := answer_cases p i <;> rw [e]
  · decide
  · decide
  · intro hi
    obtain ho | ⟨-, ho, -⟩ := outcome_cases p i <;> rw [hi] at ho <;> cases ho

/-- A request answers IllegalCommand exactly when its opcode is reserved (R62). -/
theorem answerRequest_illegalCommand_iff (p : Params) (r : Request) :
    (answerRequest p r).1 = .illegalCommand ↔ decodeRequest r = none := by
  constructor
  · intro h
    cases hd : decodeRequest r with
    | none => rfl
    | some i =>
      obtain rfl := decodeRequest_iff.mp hd
      rw [answerRequest_request] at h
      exact absurd h (answer_ne_illegalCommand p i)
  · intro h
    rw [answerRequest_of_none h]

end Sys2Proof.Reference

namespace Sys2Proof.Machine

/-- Settles O2: a command's frame parses to its request. -/
theorem decodeOfEncodeIsTheCommand : Obligations.DecodeOfEncodeIsTheCommand :=
  fun i rest hw => decode_instr_iff.mpr (parseFrame_requestFrame i.request rest hw)

/-- Settles O3: only a command's frame parses to its request. -/
theorem decodedBytesAreTheEncoding : Obligations.DecodedBytesAreTheEncoding :=
  fun _ _ _ h => parseFrame_some (decode_instr_iff.mp h)

/-- Settles O4: the frame's length, the parser as an equivalence, and the proper fronts. -/
theorem lengthFieldsFixTheFrameEnd : Obligations.LengthFieldsFixTheFrameEnd :=
  ⟨requestFrame_length, fun _ _ _ => parseFrame_iff, fun _ _ _ => parseFrame_proper_front⟩

/-- Settles O6: a request decodes to no command exactly when its opcode is reserved, and then alone is its answer
IllegalCommand. -/
theorem reservedOpcodesAnswerIllegalCommand : Obligations.ReservedOpcodesAnswerIllegalCommand := by
  refine ⟨decodeRequest_none_iff, ?reserved, ?only⟩
  case reserved =>
    intro r s he hr
    have ha := Reference.answerRequest_of_none ((decodeRequest_none_iff r).mpr hr) s.par
    refine ⟨_, step_executing_answer he, ?_, ?_, rfl⟩
    · rw [complete_rspStatus, ha]; rfl
    · rw [complete_rspR, ha]
  case only =>
    intro r s t he hs h10
    rw [step_executing_answer he] at hs
    cases hs
    have hi : (Reference.answerRequest s.par r).1 = .illegalCommand := code_injective h10
    exact (decodeRequest_none_iff r).mp ((Reference.answerRequest_illegalCommand_iff s.par r).mp hi)

/-- Settles O1, by evaluation of the decoder on the seven fixed sequences. -/
theorem specFramesDecode : Obligations.SpecFramesDecode := by
  unfold Obligations.SpecFramesDecode
  decide

end Sys2Proof.Machine

/-!
SUPPORT. Frames that arrive in parts: what a block that is receiving keeps, when it latches, and when it is stuck
(30_encoding.md R60; 70_reset_and_hazards.md R174).
-/

namespace Sys2Proof.Machine

section Taking

variable {s : State}

theorem step_idle_waits (hr : s.rst = false) (hc : s.ctl = .idle) (hn : s.reqIn = []) : step s = .next s := by
  rw [step_idle hr hc, State.idleStep, if_pos hn]

theorem step_idle_takes (hr : s.rst = false) (hc : s.ctl = .idle) (hn : s.reqIn ≠ []) :
    step s = .next (s.take s.reqIn) := by
  rw [step_idle hr hc, State.idleStep, if_neg hn]

theorem step_receiving_takes (hr : s.rst = false) (hc : s.ctl = .busy) (hl : s.latch = none) (hn : s.reqIn ≠ []) :
    step s = .next (s.take (s.rx ++ s.reqIn)) := by
  rw [step_receiving hr hc hl, State.receiveStep, if_neg hn]

/-- With no byte left to take, a block that is receiving a frame takes no step (R60, R174). -/
theorem step_receiving_stuck (hr : s.rst = false) (hc : s.ctl = .busy) (hl : s.latch = none) (hn : s.reqIn = []) :
    step s = .fault .partialFrame := by
  rw [step_receiving hr hc hl, State.receiveStep, if_pos hn]

/-- Every step of a block: a next state, or a BUSY block that is receiving and has nothing to take is stuck (R174). -/
theorem step_next_or_stuck (s : State) : (∃ t, step s = .next t) ∨
    (step s = .fault .partialFrame ∧ s.ctl = .busy ∧ s.latch = none ∧ s.reqIn = []) := by
  cases hr : s.rst with
  | true => exact .inl ⟨_, step_reset hr⟩
  | false =>
    cases hc : s.ctl with
    | idle =>
      by_cases hn : s.reqIn = []
      · exact .inl ⟨s, step_idle_waits hr hc hn⟩
      · exact .inl ⟨_, step_idle_takes hr hc hn⟩
    | busy =>
      cases hl : s.latch with
      | some r => exact .inl ⟨_, step_executing_answer ⟨hr, hc, hl⟩⟩
      | none =>
        by_cases hn : s.reqIn = []
        · exact .inr ⟨step_receiving_stuck hr hc hl hn, rfl, rfl, hn⟩
        · exact .inl ⟨_, step_receiving_takes hr hc hl hn⟩

end Taking

/-- Settles O56: where no step is taken, the invariant gives the front of a frame. -/
theorem onlyAPartialFrameStops : Obligations.OnlyAPartialFrameStops := by
  intro s hi
  refine (step_next_or_stuck s).imp_right ?_
  rintro ⟨hs, hc, hl, hn⟩
  obtain ⟨r, hr, -⟩ | ⟨-, hx, hp⟩ := hi.busy_holds_one hc
  · rw [hl] at hr; cases hr
  · exact ⟨hs, hc, hx, hp, hn⟩

/-- Settles O11: the block takes the bytes as the front of a frame, and has none left to take. -/
theorem partialFrameLeavesTheBlockStuck : Obligations.PartialFrameLeavesTheBlockStuck := by
  intro s hr hc hn hp
  exact ⟨_, by rw [step_idle_takes hr hc hn, take_of_partial hp], rfl, step_receiving_stuck hr rfl rfl rfl⟩

/-! ## A frame in parts -/

/-- `s` after it has taken `front`, the front of a frame, with its port left empty (R60). -/
def State.receiving (front : ByteSeq) (s : State) : State :=
  { s with ctl := .busy, latch := none, rx := front, reqIn := [] }

/-- A block that is receiving keeps a part that does not complete the frame (R60). -/
theorem step_receives_part {s : State} (hr : s.rst = false) (hc : s.ctl = .busy) (hl : s.latch = none)
    (hn : s.reqIn ≠ []) (hp : parseFrame (s.rx ++ s.reqIn) = none) :
    step s = .next { s with rx := s.rx ++ s.reqIn, reqIn := [] } := by
  rw [step_receiving_takes hr hc hl hn, take_of_partial hp, ← hc, ← hl]

/-- A block that is receiving latches the request once its frame is complete (R22, R60). -/
theorem step_completes_frame {s : State} {r : Request} {rest : ByteSeq} (hr : s.rst = false) (hc : s.ctl = .busy)
    (hl : s.latch = none) (hn : s.reqIn ≠ []) (hw : r.wf = true) (hf : s.rx ++ s.reqIn = requestFrame r ++ rest) :
    step s = .next { s with latch := some r, rx := [], reqIn := rest } := by
  rw [step_receiving_takes hr hc hl hn, take_of_parse (parseFrame_iff.mpr ⟨hw, hf⟩), ← hc]

/-- The first part of a frame that comes to a ready block begins a frame (R60). -/
theorem step_first_part {s : State} (hs : s.Ready) {part : ByteSeq} (hne : part ≠ []) (hp : parseFrame part = none) :
    step (s.hostSend part) = .next (s.receiving part) := by
  obtain ⟨hr, hc, hin⟩ := hs
  have hport : (s.hostSend part).reqIn = part := by rw [hostSend_reqIn, hin, List.nil_append]
  have hstep : step (s.hostSend part) = _ := step_idle_takes hr hc (by rwa [hport])
  rw [hstep, hport, take_of_partial hp]
  rfl

/-- Parts that do not complete the frame are kept, in their order (R60). -/
theorem sendParts_receiving {s : State} (hr : s.rst = false) {parts : List ByteSeq} {front : ByteSeq}
    (hne : ∀ part ∈ parts, part ≠ []) (hp : parseFrame (front ++ parts.flatten) = none) :
    sendParts parts (s.receiving front) = .next (s.receiving (front ++ parts.flatten)) := by
  induction parts generalizing front with
  | nil => rw [List.flatten_nil, List.append_nil]; rfl
  | cons part parts ih =>
    obtain ⟨hpart, hparts⟩ := List.forall_mem_cons.mp hne
    rw [List.flatten_cons, ← List.append_assoc] at hp ⊢
    have hstep : step ((s.receiving front).hostSend part) = .next (s.receiving (front ++ part)) :=
      step_receives_part hr rfl rfl hpart (parseFrame_none_of_append hp)
    rw [sendParts, hstep]
    exact ih hparts hp

/-- Parts that do not complete a frame leave a ready block receiving it (R60). -/
theorem sendParts_ready {s : State} (hs : s.Ready) {parts : List ByteSeq} (hparts : parts ≠ [])
    (hne : ∀ part ∈ parts, part ≠ []) (hp : parseFrame parts.flatten = none) :
    sendParts parts s = .next (s.receiving parts.flatten) := by
  cases parts with
  | nil => exact absurd rfl hparts
  | cons part parts =>
    obtain ⟨hpart, hrest⟩ := List.forall_mem_cons.mp hne
    rw [List.flatten_cons] at hp ⊢
    rw [sendParts, step_first_part hs hpart (parseFrame_none_of_append hp)]
    exact sendParts_receiving hs.1 hrest hp

/-- Settles O12: no proper front of a frame is a frame, so every part but the last is kept, and the last completes the
frame. -/
theorem splitFrameIsLatchedWhole : Obligations.SplitFrameIsLatchedWhole := by
  refine ⟨fun _ => step_receives_part, fun _ _ _ => step_completes_frame, ?_⟩
  intro s r parts last more hs hw hf hne hlast
  have hcut : parts.flatten ++ (last ++ more) = requestFrame r ++ more := by rw [hf, List.append_assoc]
  have hmore : last ++ more ≠ [] := List.append_ne_nil_of_left_ne_nil hlast more
  by_cases hparts : parts = []
  · subst hparts
    obtain ⟨hr, hc, hin⟩ := hs
    refine ⟨s, rfl, rfl, fun h => absurd rfl h, ?_⟩
    have hport : (s.hostSend (last ++ more)).reqIn = requestFrame r ++ more := by rw [hostSend_reqIn, hin]; exact hcut
    exact idleBlockLatchesTheRequest _ r more hr hc hw hport
  · refine ⟨_, sendParts_ready hs hparts hne (parseFrame_proper_front hw hf hlast), rfl, fun _ => rfl, ?_⟩
    exact step_completes_frame (s := (s.receiving parts.flatten).hostSend (last ++ more)) hs.1 rfl rfl hmore hw hcut

end Sys2Proof.Machine

/-!
SUPPORT. The hex alphabet, PACK's tokens, and the lines of a host's command stream (30_encoding.md R65, R66, R69, R70).
-/

namespace Sys2Proof.Reference

open Sys2Proof.Machine

/-! ## What well-formed operands answer -/

section Answers

variable {p : Params} {a : ByteSeq}

theorem answer_csum_ok (h : p.Within a.length) : answer p (.csum a []) = (.ok, [checksum a]) :=
  answer_outcome h (nil_within p) rfl

theorem answer_derive_ok (p : Params) (c : Byte) : answer p (.derive [c] []) = (.ok, key p c) :=
  answer_outcome (within_of_le p (Nat.le_add_left 1 20)) (nil_within p) rfl

theorem answer_xform_ok {k d : ByteSeq} (hk : k.length = 13) (hd : p.Within d.length) :
    answer p (.xform k d) = (.ok, transform k d) :=
  answer_outcome (within_of_le p (by rw [Instr.opA, hk]; decide)) hd (by simp [breaksRow, hk])

theorem answer_pack_ok (ha : a ≠ []) (h : p.Within a.length) : answer p (.pack a []) = (.ok, token p a) :=
  answer_outcome h (nil_within p) (by simp [breaksRow, ha])

theorem answer_unpack_validate (h : p.Within a.length) : answer p (.unpack a []) = validate p a :=
  answer_outcome h (nil_within p) rfl

end Answers

/-! ## Tokens -/

/-- The characters of a byte are lower-case digits (R65, R66). -/
theorem mem_lowerDigits_of_hexByte {b c : Byte} (h : c ∈ hexByte b) : c ∈ lowerDigits := by
  have digit : ∀ v, v < lowerDigits.length → lowerDigits.getD v 0#8 ∈ lowerDigits := fun v hv => by
    rw [List.getD_eq_getElem _ _ hv]
    exact List.getElem_mem hv
  have hb := b.isLt
  have hl : lowerDigits.length = 16 := rfl
  simp only [hexByte, List.mem_cons, List.not_mem_nil, or_false] at h
  obtain rfl | rfl := h
  · exact digit _ (by omega)
  · exact digit _ (by omega)

theorem mem_lowerDigits_of_hex {x : ByteSeq} {c : Byte} (h : c ∈ hex x) : c ∈ lowerDigits := by
  obtain ⟨_, -, hc⟩ := List.mem_flatMap.mp h
  exact mem_lowerDigits_of_hexByte hc

end Sys2Proof.Reference

namespace Sys2Proof.Machine

/-- Settles O22: the execution of the latched request completes with its closed-form answer. -/
theorem everyRequestGetsItsReferenceAnswer : Obligations.EveryRequestGetsItsReferenceAnswer :=
  fun _ _ => step_executing_answer

/-- Settles O45: PACK answers the closed-form token, whose ciphertext is as long as the address. -/
theorem packedTokenFormat : Obligations.PackedTokenFormat := by
  intro a s ha hw
  have e := exec_answer (.pack a []) s
  rw [Reference.answer_pack_ok ha hw] at e
  refine ⟨_, Reference.transform (Reference.key s.par (Reference.checksum a)) a, e, rfl,
    Reference.transform_length _ _, ?_, Reference.token_length s.par a, fun c hc => ?_⟩
  · rw [complete_rspR, Reference.token, Reference.hex_cons]
  · exact Reference.mem_lowerDigits_of_hex hc

/-! ## The hex alphabet -/

section HexDigits

variable (c : Byte)

theorem isDecimalDigit_iff : isDecimalDigit c = true ↔ 0x30 ≤ c.toNat ∧ c.toNat ≤ 0x39 := by
  simp [isDecimalDigit, BitVec.le_def]

theorem isLowerDigit_iff : isLowerDigit c = true ↔ 0x61 ≤ c.toNat ∧ c.toNat ≤ 0x66 := by
  simp [isLowerDigit, BitVec.le_def]

theorem isUpperDigit_iff : isUpperDigit c = true ↔ 0x41 ≤ c.toNat ∧ c.toNat ≤ 0x46 := by
  simp [isUpperDigit, BitVec.le_def]

theorem isHexDigit_iff (p : Params) : isHexDigit p c = true ↔
    (0x30 ≤ c.toNat ∧ c.toNat ≤ 0x39) ∨ (0x61 ≤ c.toNat ∧ c.toNat ≤ 0x66) ∨
    (p.hexAcceptUpper = true ∧ 0x41 ≤ c.toNat ∧ c.toNat ≤ 0x46) := by
  rw [isHexDigit, Bool.or_eq_true, Bool.or_eq_true, Bool.and_eq_true, isDecimalDigit_iff, isLowerDigit_iff,
    isUpperDigit_iff, or_assoc]

variable {c}

theorem hexVal_decimal (h : 0x30 ≤ c.toNat ∧ c.toNat ≤ 0x39) : (hexVal c).toNat = c.toNat - 0x30 := by
  rw [hexVal, if_pos ((isDecimalDigit_iff c).mpr h)]
  bv_omega

theorem hexVal_lower (h : 0x61 ≤ c.toNat ∧ c.toNat ≤ 0x66) : (hexVal c).toNat = c.toNat - 0x61 + 10 := by
  rw [hexVal, if_neg (by rw [isDecimalDigit_iff]; omega), if_pos ((isLowerDigit_iff c).mpr h)]
  bv_omega

theorem hexVal_upper (h : 0x41 ≤ c.toNat ∧ c.toNat ≤ 0x46) : (hexVal c).toNat = c.toNat - 0x41 + 10 := by
  rw [hexVal, if_neg (by rw [isDecimalDigit_iff]; omega), if_neg (by rw [isLowerDigit_iff]; omega)]
  bv_omega

end HexDigits

/-- Settles O37: the sixteen characters by evaluation, the digits and their values from the three ranges. -/
theorem hexAlphabet : Obligations.HexAlphabet :=
  ⟨by decide, fun p c => isHexDigit_iff c p, fun _ => ⟨hexVal_decimal, hexVal_lower, hexVal_upper⟩⟩

/-! ## Lines -/

/-- One line run on a ready block: its command's closed-form answer is the first response, and the other lines run on
the block as that answer leaves it (R69, R174). -/
theorem runLines_cons {l : Line} {ls : List Line} {r : ByteSeq} {i : Instr} {s t : State}
    {rs : List (Byte × ByteSeq)} (hs : s.Ready) (ha : l.assemble r = some i) (hw : i.wf = true)
    (hrest : runLines ls (Reference.answer s.par i).2 (s.answered i.request []) = some (rs, t)) :
    runLines (l :: ls) r s =
      some (((Reference.answer s.par i).1.code, (Reference.answer s.par i).2) :: rs, t) := by
  have hcmd : hostCommand i s = .next (s.answered i.request []) := hostRequest_answer hs hw
  simp only [runLines, ha, hcmd, answered_rspStatus, answered_rspR, Reference.answerRequest_request, hrest]

/-- Two lines that both answer OK on a ready block, the second with the first's result as `$R` (R69, R70). -/
theorem runLines_pair {l m : Line} {i j : Instr} {x y : ByteSeq} {s : State} (hs : s.Ready)
    (hl : l.assemble [] = some i) (hi : i.wf = true) (hx : Reference.answer s.par i = (.ok, x))
    (hm : m.assemble x = some j) (hj : j.wf = true) (hy : Reference.answer s.par j = (.ok, y)) :
    ∃ t, runLines [l, m] [] s = some ([(Status.ok.code, x), (Status.ok.code, y)], t) := by
  have second := runLines_cons (ls := []) (answered_ready hs i.request) hm hj rfl
  rw [answered_par, hy] at second
  have first := runLines_cons (ls := [m]) hs hl hi (by rw [hx]; exact second)
  rw [hx] at first
  exact ⟨_, first⟩

/-- Settles O51: both lines are XFORM under one key, and the transform undoes itself. -/
theorem decryptUndoesEncrypt : Obligations.DecryptUndoesEncrypt := by
  intro k d s hs hk hd hlen
  have fits : ∀ x : ByteSeq, x.length = d.length → (Instr.xform k x).wf = true := fun x hx =>
    (Instr.wf_iff _).mpr ⟨by rw [Instr.opA, hk]; decide, by rwa [Instr.opB, hx]⟩
  have hx := Reference.transform_length k d
  have back : Reference.answer s.par (.xform k (Reference.transform k d)) = (.ok, d) := by
    rw [Reference.answer_xform_ok hk (by rwa [hx]), Reference.transform_transform]
  exact ⟨_, runLines_pair hs rfl (fits d rfl) (Reference.answer_xform_ok hk hd) rfl (fits _ hx) back⟩

/-- Settles O52: KEYOF is CSUM and DERIVE of its byte, ROUNDTRIP is PACK and UNPACK of its token. -/
theorem pseudoCommandsKeyofAndRoundtrip : Obligations.PseudoCommandsKeyofAndRoundtrip := by
  constructor
  · intro a s hs hw hlen
    exact runLines_pair hs rfl (Instr.wf_of_nil rfl hlen) (Reference.answer_csum_ok hw) rfl rfl
      (Reference.answer_derive_ok s.par _)
  · intro a s hs h9 hw hlen
    have ht := Reference.token_length s.par a
    have ha : a ≠ [] := List.length_pos_iff.mp (by omega)
    have hpack : (Instr.pack a []).wf = true := Instr.wf_of_nil rfl (by rw [Instr.opA]; omega)
    have hunpack : (Instr.unpack (Reference.token s.par a) []).wf = true :=
      Instr.wf_of_nil rfl (by rwa [Instr.opA, ht])
    have packed := Reference.answer_pack_ok ha (within_mono hw (by omega))
    have unpacked : Reference.answer s.par (.unpack (Reference.token s.par a) []) = (.ok, a) := by
      rw [Reference.answer_unpack_validate (by rwa [ht]), Reference.validate_token s.par a h9]
    exact ⟨_, runLines_pair hs rfl hpack packed rfl hunpack unpacked⟩

/-- Settles O7, by evaluation of the reader on the fixed lines. -/
theorem sourceLinesAssemble : Obligations.SourceLinesAssemble := by
  unfold Obligations.SourceLinesAssemble
  decide

end Sys2Proof.Machine

/-!
SUPPORT. CSUM, and the step that computes its sum (40_checksum.md R80 to R82).
-/

namespace Sys2Proof.Reference

/-- The closed form as a number: the integer sum, reduced once (R82). -/
theorem checksum_toNat (x : ByteSeq) : (checksum x).toNat = (x.map BitVec.toNat).sum % 256 :=
  BitVec.toNat_ofNat _ 8

/-- Reducing the sum before it becomes a byte changes nothing (R82). -/
theorem checksum_eq_ofNat_mod (x : ByteSeq) : checksum x = BitVec.ofNat 8 ((x.map BitVec.toNat).sum % 256) := by
  rw [← checksum_toNat, BitVec.ofNat_toNat, BitVec.setWidth_eq]

end Sys2Proof.Reference

namespace Sys2Proof.Machine

/-- A command completes with the closed-form answer, once that answer is known. -/
theorem exec_of_answer {i : Instr} {s : State} {st : Status} {r : ByteSeq} (h : Reference.answer s.par i = (st, r)) :
    exec i s = .next (s.complete st r) := by
  rw [exec_answer, h]

/-- ACC after the checksum step does not depend on the registers before it (R81). -/
theorem checksum_acc (x : ByteSeq) (w : Work) : (w.checksum x).acc = Reference.checksum x := by
  rw [checksum_eq]

/-- Settles O17: the three answers of a command, in their order, for CSUM's row. -/
theorem csumRule : Obligations.CsumRule := by
  intro a b s
  refine ⟨rfl, fun hlen => ?_, fun ha hb hne => ?_, fun ha hb => ?_⟩
  · exact exec_of_answer (Reference.answer_overlength hlen)
  · exact exec_of_answer (Reference.answer_badOperand ha hb (bne_iff_ne.mpr hne))
  · rw [hb, ← Reference.checksum_eq_ofNat_mod]
    exact exec_of_answer (Reference.answer_csum_ok ha)

/-- Settles O28: the whole effect of the step is its closed form in ACC, the length in N, and the count of iterations. -/
theorem checksumStepWritesAccAndN : Obligations.ChecksumStepWritesAccAndN := by
  intro x w
  rw [checksum_eq, ← Reference.checksum_eq_ofNat_mod]
  exact ⟨rfl, rfl, rfl, rfl, rfl, rfl, rfl, rfl, rfl, rfl, rfl⟩

/-- Settles O29: ACC is the closed form, which adds over a split and does not see the order. -/
theorem checksumGroupingLaws : Obligations.ChecksumGroupingLaws := by
  refine ⟨fun x w => ?truncation, fun y z w u v => ?split, fun x y w u hxy => ?permutation⟩
  case truncation => rw [checksum_acc, Reference.checksum_toNat]
  case split => rw [checksum_acc, checksum_acc, checksum_acc, Reference.checksum_append, BitVec.toNat_add]
  case permutation => rw [checksum_acc, checksum_acc, Reference.checksum_perm hxy]

end Sys2Proof.Machine

/-!
SUPPORT. DERIVE, and the step that writes the key (41_key_derivation.md R90 to R92).
-/

namespace Sys2Proof.Reference

/-- Beside MAX_LEN and HEX_ACCEPT_UPPER, a command's answer depends on the parameters through the derived keys alone
(R90, R122, R123). -/
theorem answer_congr_key {p q : Params} (hk : ∀ c, key p c = key q c) (hm : p.headroom = q.headroom)
    (hu : p.hexAcceptUpper = q.hexAcceptUpper) (i : Instr) : answer p i = answer q i := by
  have hlong (n : Nat) : overlong p n = overlong q n := by rw [overlong, overlong, Params.maxLen, Params.maxLen, hm]
  have hout : outcome p i = outcome q i := by
    cases i with
    | csum a b => rfl
    | derive a b => rw [outcome, outcome, hk]
    | xform a b => rfl
    | pack a b => rw [outcome, outcome, token, token, hk]
    | unpack a b => simp only [outcome, validate, hu, hk]
  rw [answer, answer, hlong, hlong, hout]

/-- No answer depends on MAGIC[0] (R91). -/
theorem answerRequest_ignores_magic_zero (p : Params) (b : Byte) (r : Request) :
    answerRequest { p with magic := p.magic.set 0 b } r = answerRequest p r := by
  rw [answerRequest, answerRequest]
  cases decodeRequest r with
  | none => rfl
  | some i => exact answer_congr_key (key_ignores_magic_zero p b) rfl rfl i

end Sys2Proof.Reference

namespace Sys2Proof.Machine

/-- Settles O18: the three answers of a command, in their order, for DERIVE's row. -/
theorem deriveRule : Obligations.DeriveRule := by
  intro a b s
  refine ⟨rfl, fun hlen => ?_, fun ha hb hne => ?_, fun c ha hb => ?_⟩
  · exact exec_of_answer (Reference.answer_overlength hlen)
  · exact exec_of_answer (Reference.answer_badOperand ha hb (by simpa [Reference.breaksRow] using hne))
  · rw [ha, hb]
    exact exec_of_answer (Reference.answer_derive_ok s.par c)

/-! ## The derivation step -/

/-- Each byte of KEY after the derivation step (R91). -/
theorem deriveKey_getElem (p : Params) (c : Byte) (w : Work) (n : Nat) (h : n < 13) :
    (w.deriveKey p c).key[n] = if n = 0 then c else p.magic[n] := by
  rw [← Vector.getElem_toList (by simpa using h)]
  simp only [deriveKey_key, Reference.key]
  cases n with
  | zero => rfl
  | succ n => simp

/-- The registers after the derivation step depend on the parameters through the derived key alone (R91). -/
theorem deriveKey_congr_key {p q : Params} {c : Byte} (hk : Reference.key p c = Reference.key q c) (w : Work) :
    w.deriveKey p c = w.deriveKey q c := by
  have hkey : (w.deriveKey p c).key = (w.deriveKey q c).key :=
    Vector.toList_inj.mp (by rw [deriveKey_key, deriveKey_key, hk])
  rw [deriveKey_regs p, deriveKey_regs q, hkey]

/-- Settles O30: the step's KEY and frame from what it writes, and both independences of MAGIC[0] from that of the
derived key. -/
theorem deriveStepWritesTheKey : Obligations.DeriveStepWritesTheKey := by
  refine ⟨fun p c w => ⟨?zero, fun n hn h1 => ?magic, fun b => ?independent, ?frame⟩, fun r s t v b he ht hv => ?response⟩
  case zero => rw [deriveKey_getElem, if_pos rfl]
  case magic => rw [deriveKey_getElem, if_neg (Nat.ne_of_gt h1)]
  case independent => exact deriveKey_congr_key (Reference.key_ignores_magic_zero p b c) w
  case frame => simp
  case response =>
    have he' : State.Executing { s with par := { s.par with magic := s.par.magic.set 0 b } } r := he
    rw [step_executing_answer he] at ht
    rw [step_executing_answer he', Reference.answerRequest_ignores_magic_zero] at hv
    cases ht
    cases hv
    exact ⟨rfl, rfl⟩

/-- Settles O31: byte 0 of a key is the checksum, and every other byte is MAGIC's. -/
theorem keysDifferInByteZero : Obligations.KeysDifferInByteZero := by
  intro p c d w u hcd n hn
  rw [deriveKey_getElem, deriveKey_getElem]
  by_cases h0 : n = 0
  · simp [h0, hcd]
  · simp [h0]

end Sys2Proof.Machine

/-!
SUPPORT. XFORM, the two RC4 passes and the transform, and the commands that do not consult MAGIC (42_stream_cipher.md R100
to R105; 10_state.md R23).
-/

namespace Sys2Proof.Reference

/-! ## Laws of the keystream's xor -/

/-- Xoring both sides with one sequence cancels in their xor. -/
theorem zipWith_xor_cancel (d e z : ByteSeq) (h : d.length ≤ z.length) :
    List.zipWith (· ^^^ ·) (List.zipWith (· ^^^ ·) d z) (List.zipWith (· ^^^ ·) e z) = List.zipWith (· ^^^ ·) d e := by
  induction z generalizing d e with
  | nil => rw [List.length_eq_zero_iff.mp (Nat.le_zero.mp h)]; rfl
  | cons y z ih =>
    match d, e with
    | [], _ => rfl
    | _ :: _, [] => rfl
    | b :: d, c :: e =>
      have hb : (b ^^^ y) ^^^ (c ^^^ y) = b ^^^ c := by
        rw [BitVec.xor_comm c, BitVec.xor_assoc, ← BitVec.xor_assoc y, BitVec.xor_self, BitVec.zero_xor]
      simp only [List.zipWith_cons_cons, hb, ih d e (Nat.le_of_succ_le_succ h)]

/-- The transform of a front is the front of the transform (R105). -/
theorem transform_append_take (k d e : ByteSeq) : (transform k (d ++ e)).take d.length = transform k d := by
  rw [transform, transform, List.take_zipWith, List.take_left, List.length_append, keystream_take]

/-- The keystream cancels in the xor of two transforms under one key (R105). -/
theorem transform_xor_transform (k d e : ByteSeq) (h : d.length = e.length) :
    List.zipWith (· ^^^ ·) (transform k d) (transform k e) = List.zipWith (· ^^^ ·) d e := by
  rw [transform, transform, ← h]
  exact zipWith_xor_cancel d e _ (keystream_length k _).ge

/-! ## Independence of MAGIC -/

/-- A command whose outcome is the same under another MAGIC has the same answer there: the operand checks do not read it
(R23). -/
theorem answer_with_magic {p : Params} {m : Vector Byte 13} {i : Instr}
    (h : outcome { p with magic := m } i = outcome p i) : answer { p with magic := m } i = answer p i := by
  have hlong (n : Nat) : overlong { p with magic := m } n = overlong p n := rfl
  rw [answer, answer, hlong, hlong, h]

end Sys2Proof.Reference

namespace Sys2Proof.Machine

/-! ## XFORM -/

/-- Settles O19: the three answers of a command, in their order, for XFORM's row. -/
theorem xformRule : Obligations.XformRule := by
  intro a b s
  refine ⟨rfl, fun hlen => ?_, fun ha hb hne => ?_, fun ha hb => ?_⟩
  · exact exec_of_answer (Reference.answer_overlength hlen)
  · exact exec_of_answer (Reference.answer_badOperand ha hb (bne_iff_ne.mpr hne))
  · exact exec_of_answer (Reference.answer_xform_ok ha hb)

/-! ## The two passes -/

theorem ksa_bijective (key : ByteSeq) (w : Work) : Function.Bijective (w.ksa key).readS := by
  rw [readS_ksa]
  exact Reference.schedule_bijective key 256

/-- Settles O32: the pass reads as the standard schedule, which fixes S. -/
theorem keyScheduleLeavesAPermutation : Obligations.KeyScheduleLeavesAPermutation := by
  intro key w _
  refine ⟨readS_ksa key w, ksa_bijective key w, fun u => ?alone, ?frame⟩
  case alone => exact sbox_ext ((readS_ksa key w).trans (readS_ksa key u).symm)
  case frame => rw [ksa_regs]; simp only [and_self]

/-- A step of the byte generation changes S by one exchange (R101). -/
theorem readS_prgaStep (w : Work) :
    w.prgaStep.readS = Reference.swap w.readS (w.i + 1#8) (w.j + w.readS (w.i + 1#8)) :=
  readS_swapS { w with i := w.i + 1#8, j := w.j + w.readS (w.i + 1#8) } _ _

/-- The byte-generation pass keeps S a permutation (R27, R101). -/
theorem prga_bijective (n : Nat) {w : Work} (h : Function.Bijective w.readS) :
    Function.Bijective (w.prga n).readS := by
  refine forEach_keeps (fun _ w => w.prgaStep) (P := fun w => Function.Bijective w.readS) (fun _ w hw => ?step)
    (fun _ hw => hw) (List.range n) h
  case step =>
    rw [readS_prgaStep]
    exact Reference.swap_bijective _ _ _ hw

/-- Settles O33: the pass appends the standard generator's bytes, and each of its steps exchanges two entries of S. -/
theorem byteGenerationKeepsAPermutation : Obligations.ByteGenerationKeepsAPermutation := by
  intro n w
  refine ⟨prga_z n w, ?length, prga_bijective n, ?frame⟩
  case length => rw [prga_z, Reference.stream_length]
  case frame => rw [prga_regs]; simp only [and_self]

/-! ## The transform -/

/-- The xor pass does not write S (R102). -/
theorem readS_xorOut (d : ByteSeq) (w : Work) : (w.xorOut d).readS = w.readS := by
  rw [Work.xorOut, xorOut_loop]
  rfl

/-- Settles O34: OUT from the closed form, S from the two passes, and the frame of the registers written. -/
theorem transformStepXorsTheKeystream : Obligations.TransformStepXorsTheKeystream := by
  intro d w
  refine ⟨transform_out d w, ?bijective, ?frame⟩
  case bijective =>
    rw [Work.transform, readS_xorOut]
    exact prga_bijective _ (ksa_bijective _ w)
  case frame => rw [transform_regs]; simp only [and_self]

/-- Settles O35: both transforms xor with the keystream of the one key. -/
theorem transformIsSelfInverse : Obligations.TransformIsSelfInverse := by
  intro d w u hk
  rw [transform_out, transform_out, hk, Reference.transform_transform]

/-- Settles O36: each law is one of the closed form under the key in KEY. -/
theorem transformLengthPrefixXorLaws : Obligations.TransformLengthPrefixXorLaws := by
  refine ⟨fun d w => ?length, fun w => ?empty, fun d e w u hk => ?front, fun d e w u hk hl => ?xor⟩
  case length => rw [transform_out, Reference.transform_length]
  case empty => rw [transform_out, Reference.transform_nil]
  case front => rw [transform_out, transform_out, hk, Reference.transform_append_take]
  case xor => rw [transform_out, transform_out, hk, Reference.transform_xor_transform _ d e hl]

/-! ## Independence of MAGIC -/

/-- Under another MAGIC a command whose outcome does not read it responds alike (R23). -/
theorem response_ignores_magic {i : Instr} {s t v : State} {m : Vector Byte 13}
    (ho : Reference.outcome { s.par with magic := m } i = Reference.outcome s.par i) (ht : exec i s = .next t)
    (hv : exec i { s with par := { s.par with magic := m } } = .next v) :
    t.rspStatus = v.rspStatus ∧ t.rspR = v.rspR := by
  rw [exec_answer] at ht
  rw [exec_answer, Reference.answer_with_magic ho] at hv
  cases ht
  cases hv
  exact ⟨rfl, rfl⟩

/-- Settles O40: neither outcome names the parameters. -/
theorem xformAndCsumIgnoreMagic : Obligations.XformAndCsumIgnoreMagic :=
  ⟨fun _ _ _ _ _ _ => response_ignores_magic rfl, fun _ _ _ _ _ _ => response_ignores_magic rfl⟩

end Sys2Proof.Machine

/-!
SUPPORT. The codec: hex conversion undone, PACK and UNPACK as rules, and the laws of the tokens UNPACK passes or accepts
(43_codec.md R120 to R130).
-/

namespace Sys2Proof.Machine

/-! ## The digit pairs -/

/-- Replacing the two digits of one pair replaces that pair (R121). -/
theorem digitPairs_set (x y : Byte) : ∀ (h : ByteSeq) (k : Nat),
    digitPairs ((h.set (2 * k) x).set (2 * k + 1) y) = (digitPairs h).set k (x, y)
  | [], _ => rfl
  | [_], 0 => rfl
  | [_], _ + 1 => rfl
  | _ :: _ :: _, 0 => rfl
  | a :: b :: rest, k + 1 => congrArg ((a, b) :: ·) (digitPairs_set x y rest k)

end Sys2Proof.Machine

namespace Sys2Proof.Reference

open Sys2Proof.Machine

/-! ## Hex conversion -/

theorem hex_append (x y : ByteSeq) : hex (x ++ y) = hex x ++ hex y :=
  List.flatMap_append

section Digits

variable {p : Params} {h x : ByteSeq}

/-- What decodes is an even number of digits, and each byte is the value of its pair (R121). -/
theorem unhex_eq_some_iff : unhex p.hexAcceptUpper h = some x ↔
    (h.length % 2 = 0 ∧ ∀ c ∈ h, isHexDigit p c = true) ∧
      (digitPairs h).map (fun d => 16#8 * hexVal d.1 + hexVal d.2) = x := by
  rw [unhex_eq, Option.ite_none_right_eq_some, Option.some.injEq, List.all_eq_true]

/-- The byte at place `k` is the value of the digits at `2k` and `2k + 1` (R121). -/
theorem unhex_getElem (hx : unhex p.hexAcceptUpper h = some x) (k : Nat) (hk : k < x.length) :
    x[k] = 16#8 * hexVal (h.getD (2 * k) 0#8) + hexVal (h.getD (2 * k + 1) 0#8) := by
  have hlen := unhex_length _ _ _ hx
  obtain ⟨-, rfl⟩ := unhex_eq_some_iff.mp hx
  apply Option.some.inj
  rw [← List.getElem?_eq_getElem hk, List.getElem?_map, digitPairs_getElem? h k (by omega)]
  rfl

/-- Two other digits at the places of byte `k` give the byte of their values there (R121, R127). -/
theorem unhex_set (hx : unhex p.hexAcceptUpper h = some x) (k : Nat) {a b : Byte} (ha : isHexDigit p a = true)
    (hb : isHexDigit p b = true) :
    unhex p.hexAcceptUpper ((h.set (2 * k) a).set (2 * k + 1) b) = some (x.set k (16#8 * hexVal a + hexVal b)) := by
  obtain ⟨⟨heven, hdigits⟩, rfl⟩ := unhex_eq_some_iff.mp hx
  refine unhex_eq_some_iff.mpr ⟨⟨by simpa using heven, fun c hc => ?_⟩, ?_⟩
  · obtain hc | rfl := List.mem_or_eq_of_mem_set hc
    · obtain hc | rfl := List.mem_or_eq_of_mem_set hc
      · exact hdigits c hc
      · exact ha
    · exact hb
  · rw [digitPairs_set, List.map_set]

/-- A byte that is no digit at one of the places of byte `k` leaves nothing to decode (R121, R127). -/
theorem unhex_set_none {k : Nat} (hk : 2 * k + 1 < h.length) {a b : Byte}
    (hab : isHexDigit p a = false ∨ isHexDigit p b = false) :
    unhex p.hexAcceptUpper ((h.set (2 * k) a).set (2 * k + 1) b) = none := by
  refine (unhex_none_iff p _).mpr (.inr ?_)
  obtain ha | hb := hab
  · refine ⟨a, ?_, ha⟩
    rw [List.set_comm _ _ (by omega)]
    exact List.mem_set (by simp; omega) a
  · exact ⟨b, List.mem_set (by simpa using hk) b, hb⟩

end Digits

end Sys2Proof.Reference

namespace Sys2Proof.Reference

open Sys2Proof.Machine

/-! ## Tokens that pass stages 1 to 3 -/

/-- `t` passes stages 1 to 3 of UNPACK, with the sum byte `c` and the ciphertext `ct` (R123). -/
structure Passes (p : Params) (t : ByteSeq) (c : Byte) (ct : ByteSeq) : Prop where
  /-- `t` is no longer than MAX_LEN (R11). -/
  within : p.Within t.length
  /-- Stage 1, Length. -/
  long : 20 ≤ t.length
  /-- Stage 2, Prefix. -/
  marked : t.head? = some 0x40#8
  /-- Stage 3, HexSyntax: the digits after the marker decode to the sum byte and the ciphertext. -/
  digits : unhex p.hexAcceptUpper t.tail = some (c :: ct)

section Passes

variable {p : Params} {t : ByteSeq} {c : Byte} {ct : ByteSeq}

theorem Passes.length (h : Passes p t c ct) : t.length = 3 + 2 * ct.length := by
  obtain ⟨c', ct', e, hl⟩ := payload_of_digits p h.long h.digits
  cases e
  exact hl

/-- Stages 4 and 5 decide on a token that passes the first three (R123). -/
theorem Passes.answer_eq (h : Passes p t c ct) : answer p (.unpack t []) =
    if checksum (transform (key p c) ct) = c then (.ok, transform (key p c) ct) else (.checksumMismatch, []) :=
  (answer_unpack_validate h.within).trans (validate_payload p h.long h.marked h.digits)

theorem Passes.answer_ok (h : Passes p t c ct) (hc : checksum (transform (key p c) ct) = c) :
    answer p (.unpack t []) = (.ok, transform (key p c) ct) := by
  rw [h.answer_eq, if_pos hc]

theorem Passes.answer_mismatch (h : Passes p t c ct) (hc : checksum (transform (key p c) ct) ≠ c) :
    answer p (.unpack t []) = (.checksumMismatch, []) := by
  rw [h.answer_eq, if_neg hc]

/-- The two statuses of stage 5 are answered to tokens that pass stages 1 to 3 alone (R123). -/
theorem passes_of_answer {b : ByteSeq} (h : (answer p (.unpack t b)).1 = .ok ∨
    (answer p (.unpack t b)).1 = .checksumMismatch) : b = [] ∧ ∃ c ct, Passes p t c ct := by
  obtain ⟨e, -⟩ | ⟨e, -⟩ | ⟨e, hw, -, hb⟩ := answer_cases p (.unpack t b)
  · simp [e] at h
  · simp [e] at h
  · refine ⟨by simpa [breaksRow] using hb, ?_⟩
    rw [e, outcome] at h
    obtain ⟨-, e⟩ | ⟨-, -, e⟩ | ⟨-, -, -, e⟩ | ⟨c, ct, hl, hm, hx, -, -⟩ := validate_cases p t
    · simp [e] at h
    · simp [e] at h
    · simp [e] at h
    · exact ⟨c, ct, hw, hl, hm, hx⟩

/-! ## Changed digits -/

/-- `t` with the digits of its payload byte `k` replaced (R127, R128). -/
def withDigits (t : ByteSeq) (k : Nat) (x y : Byte) : ByteSeq :=
  (t.set (1 + 2 * k) x).set (2 + 2 * k) y

section WithDigits

variable (t : ByteSeq) (k : Nat) (x y : Byte)

@[simp] theorem withDigits_length : (withDigits t k x y).length = t.length := by
  simp [withDigits]

@[simp] theorem withDigits_head? : (withDigits t k x y).head? = t.head? := by
  simp [withDigits, List.head?_eq_getElem?]

@[simp] theorem withDigits_tail : (withDigits t k x y).tail = (t.tail.set (2 * k) x).set (2 * k + 1) y := by
  rw [List.set_tail, List.set_tail, withDigits, Nat.add_comm 1, Nat.add_comm 2]

end WithDigits

variable {k : Nat} {x y : Byte}

/-- Payload byte `k` of a token stands in its digits at `1 + 2k` and `2 + 2k` (R65, R121). -/
theorem Passes.payload_getElem (h : Passes p t c ct) (hk : k < (c :: ct).length) :
    (c :: ct)[k] = 16#8 * hexVal (t.getD (1 + 2 * k) 0#8) + hexVal (t.getD (2 + 2 * k) 0#8) := by
  have shift (n : Nat) : t.tail.getD n 0#8 = t.getD (n + 1) 0#8 := by
    simp [List.getD_eq_getElem?_getD]
  rw [unhex_getElem h.digits k hk, shift, shift, Nat.add_comm 1, Nat.add_comm 2]

/-- Digits in place of digits leave a token that passes stages 1 to 3, with one byte of its payload replaced. -/
theorem Passes.passes_withDigits (h : Passes p t c ct) (hx : isHexDigit p x = true) (hy : isHexDigit p y = true) {c' : Byte}
    {ct' : ByteSeq} (hset : (c :: ct).set k (16#8 * hexVal x + hexVal y) = c' :: ct') :
    Passes p (withDigits t k x y) c' ct' where
  within := by rw [withDigits_length]; exact h.within
  long := by rw [withDigits_length]; exact h.long
  marked := by rw [withDigits_head?]; exact h.marked
  digits := by rw [withDigits_tail, unhex_set h.digits k hx hy, hset]

/-- A byte that is no digit in place of one of a token's digits fails stage 3 (R123, R127). -/
theorem Passes.answer_withDigits_none (h : Passes p t c ct) (hk : k ≤ ct.length)
    (hxy : isHexDigit p x = false ∨ isHexDigit p y = false) :
    answer p (.unpack (withDigits t k x y) []) = (.badEncoding, []) := by
  have hl := h.length
  have hx : unhex p.hexAcceptUpper (withDigits t k x y).tail = none := by
    rw [withDigits_tail]
    exact unhex_set_none (by rw [List.length_tail]; omega) hxy
  rw [answer_unpack_validate (by rw [withDigits_length]; exact h.within)]
  exact validate_encoding p (by rw [withDigits_length]; exact h.long) (by rw [withDigits_head?]; exact h.marked) hx

end Passes

/-- Under one key the plaintext's checksum is unchanged exactly if the replaced ciphertext byte is (R127): one byte moves
the sum by its own difference. -/
theorem checksum_transform_set_iff (k d : ByteSeq) {n : Nat} (h : n < d.length) (b : Byte) :
    checksum (transform k (d.set n b)) = checksum (transform k d) ↔ b = d[n] := by
  have hn : n < (transform k d).length := by rwa [transform_length]
  have moved := checksum_set (transform k d) n (b ^^^ (keystream k d.length)[n]'(by simpa using h)) hn
  rw [← transform_set k d n b h] at moved
  rw [← BitVec.add_left_inj (transform k d)[n], moved, BitVec.add_right_inj, transform_getElem, BitVec.xor_left_inj]

end Sys2Proof.Reference

namespace Sys2Proof.Machine

/-! ## Hex conversion -/

/-- Settles O38: both loops leave their closed forms, and the digits of an encoding are those that decode to its bytes. -/
theorem hexDecodeOfHexEncode : Obligations.HexDecodeOfHexEncode := by
  refine ⟨fun x w => ?encode, fun h w => ?decode, fun p x w u => ?inverse⟩
  case encode =>
    rw [hexEncode_eq]
    exact congrArg (x.flatMap ·) (funext fun b => (hexChar_nibbles b).symm)
  case decode =>
    rw [hexDecode_eq]
    refine ⟨by rw [List.length_map, digitPairs_length], fun k hk => ?_⟩
    rw [List.getElem?_map, digitPairs_getElem? h k hk]
    rfl
  case inverse =>
    obtain ⟨⟨-, hdigits⟩, hbytes⟩ := Reference.unhex_eq_some_iff.mp (Reference.unhex_hex p.hexAcceptUpper x)
    rw [hexEncode_eq, hexDecode_eq]
    exact ⟨Reference.hex_length x, hdigits, hbytes⟩

/-! ## The rules -/

/-- Settles O20: the three answers of a command, in their order, for PACK's row. -/
theorem packRule : Obligations.PackRule := by
  intro a b s
  refine ⟨rfl, fun hlen => ?_, fun ha hb hne => ?_, fun ha hne hb => ?_⟩
  · exact exec_of_answer (Reference.answer_overlength hlen)
  · exact exec_of_answer (Reference.answer_badOperand ha hb (by simpa [Reference.breaksRow] using hne))
  · rw [hb]
    exact exec_of_answer (Reference.answer_pack_ok hne ha)

/-- Settles O21: the three answers of a command, in their order, for UNPACK's row, and the validator's stages in theirs. -/
theorem unpackRule : Obligations.UnpackRule := by
  intro a b s
  refine ⟨rfl, fun hlen => ?_, fun ha hb hne => ?_, fun ha hb => ?_⟩
  · exact exec_of_answer (Reference.answer_overlength hlen)
  · exact exec_of_answer (Reference.answer_badOperand ha hb (bne_iff_ne.mpr hne))
  · subst hb
    have validated {st : Status} {r : ByteSeq} (hv : Reference.validate s.par a = (st, r)) :
        exec (.unpack a []) s = .next (s.complete st r) :=
      exec_of_answer ((Reference.answer_unpack_validate ha).trans hv)
    refine ⟨fun h => ?short, fun h hm => ?marker, fun h hm hx => ?encoding, fun c ct h hm hx => ?payload⟩
    case short => exact validated (Reference.validate_short _ h)
    case marker => exact validated (Reference.validate_prefix _ h hm)
    case encoding => exact validated (Reference.validate_encoding _ h hm hx)
    case payload =>
      have hpass : Reference.Passes s.par a c ct := ⟨ha, h, hm, hx⟩
      split
      · next hc => exact exec_of_answer (hpass.answer_ok hc)
      · next hc => exact exec_of_answer (hpass.answer_mismatch hc)

/-! ## Laws of the codec -/

section Response

variable {i : Instr} {s t : State}

/-- The status of a response is the closed form's (R64). -/
theorem exec_status_iff (h : exec i s = .next t) (st : Status) :
    t.rspStatus = st.code ↔ (Reference.answer s.par i).1 = st := by
  rw [exec_answer] at h
  cases h
  exact code_injective.eq_iff

theorem exec_response {st : Status} {r : ByteSeq} (h : exec i s = .next t)
    (ha : Reference.answer s.par i = (st, r)) : t.rspStatus = st.code ∧ t.rspR = r := by
  rw [exec_of_answer ha] at h
  cases h
  exact ⟨rfl, rfl⟩

/-- The same for a block whose parameters are those the answer is known for (R45). -/
theorem exec_response_of_par {p : Params} {st : Status} {r : ByteSeq} (hp : p = s.par) (h : exec i s = .next t)
    (ha : Reference.answer p i = (st, r)) : t.rspStatus = st.code ∧ t.rspR = r :=
  exec_response h (hp ▸ ha)

variable {tok b : ByteSeq}

/-- A token with one of stage 5's two statuses has passed stages 1 to 3 (R123). -/
theorem unpack_passes (h : exec (.unpack tok b) s = .next t)
    (hst : t.rspStatus = Status.ok.code ∨ t.rspStatus = Status.checksumMismatch.code) :
    b = [] ∧ ∃ c ct, Reference.Passes s.par tok c ct :=
  Reference.passes_of_answer (hst.imp (exec_status_iff h _).mp (exec_status_iff h _).mp)

/-- A token that UNPACK accepts has passed stages 1 to 3, its sum byte is the plaintext's checksum, and the result is the
plaintext (R123). -/
theorem unpack_accepted (h : exec (.unpack tok b) s = .next t) (hok : t.rspStatus = Status.ok.code) :
    ∃ c ct, Reference.Passes s.par tok c ct ∧
      Reference.checksum (Reference.transform (Reference.key s.par c) ct) = c ∧
      t.rspR = Reference.transform (Reference.key s.par c) ct := by
  obtain ⟨rfl, c, ct, hpass⟩ := unpack_passes h (.inl hok)
  by_cases hc : Reference.checksum (Reference.transform (Reference.key s.par c) ct) = c
  · exact ⟨c, ct, hpass, hc, (exec_response h (hpass.answer_ok hc)).2⟩
  · rw [(exec_response h (hpass.answer_mismatch hc)).1] at hok
    exact absurd hok (by decide)

/-- What PACK answers OK is the token of a non-empty address (R122). -/
theorem pack_accepted {a : ByteSeq} (h : exec (.pack a b) s = .next t) (hok : t.rspStatus = Status.ok.code) :
    a ≠ [] ∧ t.rspR = Reference.token s.par a := by
  have hst := (exec_status_iff h .ok).mp hok
  obtain ⟨e, -⟩ | ⟨e, -⟩ | ⟨e, -, -, hrow⟩ := Reference.answer_cases s.par (.pack a b)
  · simp [e] at hst
  · simp [e] at hst
  · refine ⟨fun ha => ?_, (exec_response h e).2⟩
    simp [Reference.breaksRow, ha] at hrow

end Response

/-- Settles O44: PACK's token is 3 + 2n bytes, and from 20 on it validates to the address. -/
theorem unpackOfPackIsTheAddress : Obligations.UnpackOfPackIsTheAddress := by
  intro a s u ha hpar hw
  have hl := Reference.token_length s.par a
  have packed := exec_of_answer (Reference.answer_pack_ok ha (within_mono hw (by omega)))
  have unpacked : Reference.answer u.par (.unpack (Reference.token s.par a) []) =
      Reference.validate s.par (Reference.token s.par a) := by
    rw [← hpar, Reference.answer_unpack_validate (by rwa [hl])]
  refine ⟨_, _, packed, rfl, exec_answer _ u, fun h9 => ?_, fun h8 => ?_⟩
  · simp [unpacked, Reference.validate_token s.par a h9]
  · simp [unpacked, Reference.validate_short s.par (t := Reference.token s.par a) (by omega)]

/-- Settles O46: digits give a token that still passes stages 1 to 3, and the plaintext's checksum follows the byte. -/
theorem ciphertextTamperIsDetected : Obligations.CiphertextTamperIsDetected := by
  intro tok s t u v k h l hpar ht hok hk hlen hv
  obtain ⟨c, ct, hpass, hsum, hresult⟩ := unpack_accepted ht hok
  obtain ⟨j, rfl⟩ : ∃ j, k = j + 1 := ⟨k - 1, by omega⟩
  have hj : j < ct.length := by have := hpass.length; omega
  have hbyte : ct[j] = _ := hpass.payload_getElem (k := j + 1) (Nat.succ_lt_succ hj)
  rw [← hbyte]
  refine ⟨fun hh hl hne => ?other, fun hh hl he => ?same, fun hn => ?noDigit⟩
  case other =>
    have hpass' := hpass.passes_withDigits hh hl (List.set_cons_succ (i := j))
    refine (exec_response_of_par hpar hv (hpass'.answer_mismatch fun hc => hne ?_)).1
    exact (Reference.checksum_transform_set_iff _ ct hj _).mp (hc.trans hsum.symm)
  case same =>
    have hpass' := hpass.passes_withDigits (k := j + 1) hh hl (by rw [he, List.set_cons_succ, List.set_getElem_self])
    rw [hresult]
    exact exec_response_of_par hpar hv (hpass'.answer_ok hsum)
  case noDigit => exact (exec_response_of_par hpar hv (hpass.answer_withDigits_none hj hn)).1

/-- Settles O47: the token with the new sum byte passes stages 1 to 3, and what it is accepted with has another checksum
than the original address. -/
theorem sumByteTamperOutcome : Obligations.SumByteTamperOutcome := by
  intro tok s t u v h l c d ct hpar ht hok hx hh hl hd hdc hv
  obtain ⟨c', ct', hpass, hsum, hresult⟩ := unpack_accepted ht hok
  cases hx.symm.trans hpass.digits
  have hpass' : Reference.Passes s.par (Reference.withDigits tok 0 h l) d ct :=
    hpass.passes_withDigits hh hl (by rw [hd, List.set_cons_zero])
  by_cases hc : Reference.checksum (Reference.transform (Reference.key s.par d) ct) = d
  · obtain ⟨hst, hr⟩ := exec_response_of_par hpar hv (hpass'.answer_ok hc)
    refine ⟨iff_of_true hst hc, .inl hst, fun _ he => hdc ?_⟩
    rw [← hc, ← hr, he, hresult, hsum]
  · obtain ⟨hst, -⟩ := exec_response_of_par hpar hv (hpass'.answer_mismatch hc)
    have hne : v.rspStatus ≠ Status.ok.code := by rw [hst]; decide
    exact ⟨iff_of_false hne hc, .inr hst, fun h => absurd h hne⟩

/-- Settles O48: PACK's from the token's length, UNPACK's from the length of a token that passes stages 1 to 3. -/
theorem tokenLengthLaw : Obligations.TokenLengthLaw := by
  refine ⟨fun a b s t h hok => ?pack, fun tok b s t h hst => ?passed, fun tok b s t h hok => ?accepted,
    fun tok b s t h20 h hok => ?twenty⟩
  case pack =>
    obtain ⟨ha, hr⟩ := pack_accepted h hok
    exact ⟨by rw [hr, Reference.token_length], List.length_pos_iff.mpr ha⟩
  case passed =>
    obtain ⟨-, c, ct, hpass⟩ := unpack_passes h hst
    have hlen := hpass.length
    have hlong := hpass.long
    exact ⟨by omega, by omega, hpass.marked⟩
  case accepted =>
    obtain ⟨c, ct, hpass, -, hr⟩ := unpack_accepted h hok
    have hlen := hpass.length
    have hlong := hpass.long
    rw [hr, Reference.transform_length]
    omega
  case twenty =>
    obtain ⟨-, c, ct, hpass⟩ := unpack_passes h (.inl hok)
    have hlen := hpass.length
    omega

/-- Settles O50: each command's closed-form answer, the parameters being the same all along. -/
theorem leafCommandsComposeToPack : Obligations.LeafCommandsComposeToPack := by
  intro a s ha hw
  have hkey := Reference.key_length s.par (Reference.checksum a)
  refine ⟨_, _, _, _, exec_of_answer (Reference.answer_csum_ok hw), exec_of_answer (Reference.answer_derive_ok s.par _),
    exec_of_answer (Reference.answer_xform_ok hkey hw), exec_of_answer (Reference.answer_pack_ok ha hw), rfl, rfl, rfl,
    rfl, ?_⟩
  exact congrArg (marker :: ·) (Reference.hex_append [Reference.checksum a] _)

end Sys2Proof.Machine

/-!
SUPPORT. The causes of the errors: each status as the answer of exactly the requests that meet its cause, and the seven
causes in their order (60_exceptions.md R150 to R153).
-/

namespace Sys2Proof

/-- A request whose opcode is not reserved is a command's (R61, R62). -/
theorem exists_command {r : Request} (h : ¬ (r.op = 0#8 ∨ 6 ≤ r.op.toNat)) : ∃ i : Instr, r = i.request := by
  rw [← decodeRequest_none_iff] at h
  obtain ⟨i, hi⟩ := Option.ne_none_iff_exists'.mp h
  exact ⟨i, decodeRequest_iff.mp hi⟩

theorem Instr.eq_unpack {i : Instr} (h : i.opcode = 0x05#8) : i = .unpack i.opA i.opB :=
  Option.some.inj ((decodeRequest_request i).symm.trans
    (decodeRequest_iff.mpr (congrArg (Request.mk · i.opA i.opB) h)))

end Sys2Proof

namespace Sys2Proof.Reference

open Sys2Proof.Machine

/-! ## The causes of the FormatErrors (R151) -/

section FormatErrors

variable {p : Params} {t : ByteSeq}

theorem validate_tooShort_iff : (validate p t).1 = .tooShort ↔ t.length < 20 := by
  obtain ⟨h, e⟩ | ⟨h, -, e⟩ | ⟨h, -, -, e⟩ | ⟨c, ct, h, -, -, -, e⟩ := validate_cases p t
  · simp [e, h]
  · simp [e, h]
  · simp [e, h]
  · simp [e, h, apply_ite Prod.fst, ite_eq_iff]

theorem validate_badPrefix_iff : (validate p t).1 = .badPrefix ↔ 20 ≤ t.length ∧ t.head? ≠ some 0x40#8 := by
  obtain ⟨h, e⟩ | ⟨h, hm, e⟩ | ⟨-, hm, -, e⟩ | ⟨c, ct, -, hm, -, -, e⟩ := validate_cases p t
  · simp [e, Nat.not_le.mpr h]
  · simp [e, h, hm]
  · simp [e, hm]
  · simp [e, hm, apply_ite Prod.fst, ite_eq_iff]

theorem validate_badEncoding_iff : (validate p t).1 = .badEncoding ↔
    20 ≤ t.length ∧ t.head? = some 0x40#8 ∧ unhex p.hexAcceptUpper t.tail = none := by
  obtain ⟨h, e⟩ | ⟨-, hm, e⟩ | ⟨h, hm, hx, e⟩ | ⟨c, ct, -, -, hx, -, e⟩ := validate_cases p t
  · simp [e, Nat.not_le.mpr h]
  · simp [e, hm]
  · simp [e, h, hm, hx]
  · simp [e, hx, apply_ite Prod.fst, ite_eq_iff]

theorem validate_checksumMismatch_iff : (validate p t).1 = .checksumMismatch ↔
    ∃ c ct, 20 ≤ t.length ∧ t.head? = some 0x40#8 ∧ unhex p.hexAcceptUpper t.tail = some (c :: ct) ∧
      checksum (transform (key p c) ct) ≠ c := by
  obtain ⟨h, e⟩ | ⟨-, hm, e⟩ | ⟨-, -, hx, e⟩ | ⟨c, ct, h, hm, hx, -, e⟩ := validate_cases p t
  · simp [e, Nat.not_le.mpr h]
  · simp [e, hm]
  · simp [e, hx]
  · simp [e, h, hm, hx, apply_ite Prod.fst]

/-- A token that passes stages 1 to 3 is left with stage 5's two statuses (R123, R153). -/
theorem validate_of_passed (h : 20 ≤ t.length) (hm : t.head? = some 0x40#8)
    (hx : unhex p.hexAcceptUpper t.tail ≠ none) :
    (validate p t).1 = .ok ∨ (validate p t).1 = .checksumMismatch := by
  obtain ⟨x, hx⟩ := Option.ne_none_iff_exists'.mp hx
  obtain ⟨c, ct, rfl, -⟩ := payload_of_digits p h hx
  rw [validate_payload p h hm hx]
  split
  · exact .inl rfl
  · exact .inr rfl

/-- A FormatError is an answer of UNPACK's validator alone, to a token that reaches it (R151). -/
theorem answer_formatError_iff {i : Instr} {st : Status} (hst : st.isFormatError = true) :
    (answer p i).1 = st ↔ ∃ a, i = .unpack a [] ∧ p.Within a.length ∧ (validate p a).1 = st := by
  constructor
  · rintro rfl
    obtain ⟨e, -⟩ | ⟨e, -⟩ | ⟨e, hw, -, hr⟩ := answer_cases p i
    · simp [e, Status.isFormatError] at hst
    · simp [e, Status.isFormatError] at hst
    · obtain ho | ⟨-, -, a, b, rfl⟩ := outcome_cases p i
      · simp [e, ho, Status.isFormatError] at hst
      · obtain rfl : b = [] := by simpa [breaksRow] using hr
        exact ⟨a, rfl, hw, congrArg Prod.fst e.symm⟩
  · rintro ⟨a, rfl, hw, hv⟩
    rw [answer_unpack_validate hw, hv]

end FormatErrors

/-! ## The causes of the block errors (R152) -/

section BlockErrors

variable {p : Params} {i : Instr}

/-- What a command that fits and keeps its row answers is no block error (R151, R152). -/
theorem outcome_ne_of_blockError {st : Status} (hst : st.isBlockError = true) : (outcome p i).1 ≠ st := by
  rintro rfl
  obtain ho | ⟨-, ho, -⟩ := outcome_cases p i
  · rw [ho] at hst
    cases hst
  · revert hst ho
    cases (outcome p i).1 <;> decide

theorem answer_overlength_iff :
    (answer p i).1 = .overlength ↔ ¬ (p.Within i.opA.length ∧ p.Within i.opB.length) := by
  obtain ⟨e, h⟩ | ⟨e, ha, hb, -⟩ | ⟨e, ha, hb, -⟩ := answer_cases p i
  · simp only [e, h, not_false_eq_true]
  · simp [e, ha, hb]
  · rw [e]
    exact iff_of_false (outcome_ne_of_blockError rfl) (not_not_intro ⟨ha, hb⟩)

theorem answer_badOperand_iff :
    (answer p i).1 = .badOperand ↔ (p.Within i.opA.length ∧ p.Within i.opB.length) ∧ breaksRow i = true := by
  obtain ⟨e, h⟩ | ⟨e, ha, hb, hr⟩ | ⟨e, -, -, hr⟩ := answer_cases p i
  · simp [e, h]
  · simp [e, ha, hb, hr]
  · rw [e]
    exact iff_of_false (outcome_ne_of_blockError rfl) (fun h => by simp [hr] at h)

/-- The rows of R61, as a request's opcode and operands break them (R152). -/
theorem breaksRow_iff_rows (i : Instr) : breaksRow i = true ↔
    ((i.opcode = 0x01#8 ∨ i.opcode = 0x04#8 ∨ i.opcode = 0x05#8) ∧ i.opB ≠ []) ∨
      (i.opcode = 0x02#8 ∧ (i.opA.length ≠ 1 ∨ i.opB ≠ [])) ∨ (i.opcode = 0x03#8 ∧ i.opA.length ≠ 13) ∨
      (i.opcode = 0x04#8 ∧ i.opA = []) := by
  cases i with
  | csum a b => simp [breaksRow, Instr.opcode, Instr.opB]
  | derive a b => simp [breaksRow, Instr.opcode, Instr.opA, Instr.opB]
  | xform a b => simp [breaksRow, Instr.opcode, Instr.opA]
  | pack a b => simp [breaksRow, Instr.opcode, Instr.opA, Instr.opB, or_comm]
  | unpack a b => simp [breaksRow, Instr.opcode, Instr.opB]

/-- The same with B's part said once: only XFORM's row has a second operand (R61). -/
theorem breaksRow_iff (i : Instr) : breaksRow i = true ↔
    (i.opcode ≠ 0x03#8 ∧ i.opB ≠ []) ∨ (i.opcode = 0x02#8 ∧ i.opA.length ≠ 1) ∨
      (i.opcode = 0x03#8 ∧ i.opA.length ≠ 13) ∨ (i.opcode = 0x04#8 ∧ i.opA = []) := by
  cases i with
  | csum a b => simp [breaksRow, Instr.opcode, Instr.opB]
  | derive a b => simp [breaksRow, Instr.opcode, Instr.opA, Instr.opB, or_comm]
  | xform a b => simp [breaksRow, Instr.opcode, Instr.opA]
  | pack a b => simp [breaksRow, Instr.opcode, Instr.opA, Instr.opB, or_comm]
  | unpack a b => simp [breaksRow, Instr.opcode, Instr.opB]

end BlockErrors

/-! ## The outcome of a command by its opcode -/

theorem outcome_of_opcode_unpack {i : Instr} (p : Params) (h : i.opcode = 0x05#8) : outcome p i = validate p i.opA :=
  congrArg (outcome p) (Instr.eq_unpack h)

theorem outcome_ok_of_ne_unpack {i : Instr} (p : Params) (h : i.opcode ≠ 0x05#8) : (outcome p i).1 = .ok := by
  obtain ho | ⟨-, -, a, b, rfl⟩ := outcome_cases p i
  · exact ho
  · exact absurd rfl h

end Sys2Proof.Reference

namespace Sys2Proof.Machine

/-! ## Outcomes -/

/-- The three outcomes of R150, by the status and the result of a completed command. -/
theorem Reply.Sound.outcomes {rep : Reply} (h : rep.Sound) :
    rep.status.code = 0x00#8 ∨
      (1 ≤ rep.status.code.toNat ∧ rep.status.code.toNat ≤ 4 ∧ rep.result = []) ∨
      (0x10 ≤ rep.status.code.toNat ∧ rep.status.code.toNat ≤ 0x12 ∧ rep.result = []) := by
  by_cases hok : rep.status = .ok
  · exact .inl (congrArg Status.code hok)
  · have hne : rep.status.code ≠ 0x00#8 := fun e => hok (code_injective e)
    have hpos : 1 ≤ rep.status.code.toNat := by bv_omega
    refine .inr ?_
    obtain hle | ⟨hge, hle⟩ := (statusLegal_iff _).mp (statusLegal_code rep.status)
    · exact .inl ⟨hpos, hle, h hok⟩
    · exact .inr ⟨hge, hle, h hok⟩

/-- A command with a status other than OK has the empty result (R64). -/
theorem exec_result_of_error {i : Instr} {s t : State} (h : exec i s = .next t) (hne : t.rspStatus ≠ Status.ok.code) :
    t.rspR = [] := by
  obtain ⟨rep, hrep, e⟩ := exec_sound i s
  rw [e] at h
  cases h
  exact hrep fun hok => hne (congrArg Status.code hok)

section Executing

variable {r : Request} {i : Instr} {s t : State}

/-- The status of the response to a request is the closed form's (R64). -/
theorem step_status_iff (he : s.Executing r) (hs : step s = .next t) (st : Status) :
    t.rspStatus = st.code ↔ (Reference.answerRequest s.par r).1 = st := by
  rw [step_executing_answer he] at hs
  cases hs
  exact code_injective.eq_iff

theorem step_command_status_iff (he : s.Executing i.request) (hs : step s = .next t) (st : Status) :
    t.rspStatus = st.code ↔ (Reference.answer s.par i).1 = st := by
  rw [step_status_iff he hs, Reference.answerRequest_request]

theorem step_reserved_status (he : s.Executing r) (hs : step s = .next t) (hr : r.op = 0#8 ∨ 6 ≤ r.op.toNat) :
    t.rspStatus = Status.illegalCommand.code := by
  rw [step_status_iff he hs, Reference.answerRequest_illegalCommand_iff, decodeRequest_none_iff]
  exact hr

/-- A command that fits and keeps its row completes with its outcome's status (R152, R153). -/
theorem step_outcome_status_iff (he : s.Executing i.request) (hs : step s = .next t)
    (hfit : s.par.Within i.opA.length ∧ s.par.Within i.opB.length) (hrow : ¬ Reference.breaksRow i = true)
    (st : Status) : t.rspStatus = st.code ↔ (Reference.outcome s.par i).1 = st := by
  rw [step_command_status_iff he hs, Reference.answer_outcome hfit.1 hfit.2 (Bool.eq_false_of_not_eq_true hrow)]

/-- For UNPACK that outcome is the validator's (R151). -/
theorem step_validate_status_iff (he : s.Executing i.request) (hs : step s = .next t)
    (hfit : s.par.Within i.opA.length ∧ s.par.Within i.opB.length) (hrow : ¬ Reference.breaksRow i = true)
    (hop : i.opcode = 0x05#8) (st : Status) :
    t.rspStatus = st.code ↔ (Reference.validate s.par i.opA).1 = st := by
  rw [step_outcome_status_iff he hs hfit hrow, Reference.outcome_of_opcode_unpack _ hop]

end Executing

/-- Settles O24: every rule's reply is sound, and a sound reply's completion is one of the three. -/
theorem everyCommandEndsInOneOutcome : Obligations.EveryCommandEndsInOneOutcome := by
  refine ⟨fun r s he => ?request, fun i s => ?command⟩
  case request =>
    obtain ⟨rep, hrep, e⟩ := executeLatched_sound r s
    exact ⟨_, (step_executing he).trans e, rfl, hrep.outcomes⟩
  case command =>
    obtain ⟨rep, hrep, e⟩ := exec_sound i s
    exact ⟨_, e, rfl, hrep.outcomes⟩

/-- Settles O25: a FormatError is the validator's, and each of its statuses has its cause. -/
theorem formatErrorCauses : Obligations.FormatErrorCauses := by
  intro i s t h
  have cause {st : Status} (hst : st.isFormatError = true) :=
    (exec_status_iff h st).trans (Reference.answer_formatError_iff hst)
  refine ⟨?tooShort, ?badPrefix, ?badEncoding, ?checksumMismatch, fun h1 _ => ?empty⟩
  case tooShort =>
    exact (cause (st := .tooShort) rfl).trans (by simp only [Reference.validate_tooShort_iff])
  case badPrefix =>
    exact (cause (st := .badPrefix) rfl).trans (by simp only [Reference.validate_badPrefix_iff])
  case badEncoding =>
    exact (cause (st := .badEncoding) rfl).trans
      (by simp only [Reference.validate_badEncoding_iff, Reference.unhex_none_iff, List.length_tail])
  case checksumMismatch =>
    exact (cause (st := .checksumMismatch) rfl).trans
      (by simp only [Reference.validate_checksumMismatch_iff, exists_and_left])
  case empty =>
    refine exec_result_of_error h fun hok => ?_
    rw [hok] at h1
    exact absurd h1 (by decide)

/-- Settles O26: a reserved opcode has the one answer, and a command's block errors have their causes. -/
theorem blockErrorCauses : Obligations.BlockErrorCauses := by
  intro r s t he hs
  dsimp only
  by_cases hr : r.op = 0#8 ∨ 6 ≤ r.op.toNat
  · rw [step_reserved_status he hs hr]
    refine ⟨iff_of_true rfl hr, iff_of_false (by decide) (fun h => h.1 hr), iff_of_false (by decide) ?_⟩
    bv_omega
  · obtain ⟨i, rfl⟩ := exists_command hr
    have status := step_command_status_iff he hs
    refine ⟨?illegal, ?overlength, ?badOperand⟩
    case illegal =>
      exact iff_of_false (fun h => Reference.answer_ne_illegalCommand s.par i ((status .illegalCommand).mp h)) hr
    case overlength =>
      exact ((status .overlength).trans Reference.answer_overlength_iff).trans (and_iff_right hr).symm
    case badOperand =>
      exact ((status .badOperand).trans Reference.answer_badOperand_iff).trans
        (and_congr_right fun _ => Reference.breaksRow_iff_rows i)

/-- Settles O27: the causes in the order in which the closed form decides them, and UNPACK's in that of its stages. -/
theorem errorsAreReportedInPriorityOrder : Obligations.ErrorsAreReportedInPriorityOrder := by
  intro r s t he hs
  dsimp only
  by_cases hr : r.op = 0#8 ∨ 6 ≤ r.op.toNat
  · exact ⟨step_reserved_status he hs, fun h => absurd hr h, fun h => absurd hr h, fun h => absurd hr h,
      fun h => absurd hr h, fun h => absurd hr h, fun h => absurd hr h⟩
  obtain ⟨i, rfl⟩ := exists_command hr
  have status := step_command_status_iff he hs
  have validated := step_validate_status_iff he hs
  rw [show i.request.op = i.opcode from rfl, show i.request.a = i.opA from rfl, show i.request.b = i.opB from rfl,
    ← Reference.breaksRow_iff, not_not]
  refine ⟨fun h => absurd h hr, fun _ hlen => ?overlength, fun _ hfit hrow => ?badOperand,
    fun _ hfit hrow ⟨hop, hshort⟩ => ?tooShort, fun _ hfit hrow hshort ⟨hop, hmark⟩ => ?badPrefix,
    fun _ hfit hrow hshort hmark ⟨hop, hdigits⟩ => ?badEncoding, fun _ hfit hrow hshort hmark hdigits => ?none⟩
  case overlength => exact (status .overlength).mpr (Reference.answer_overlength_iff.mpr hlen)
  case badOperand => exact (status .badOperand).mpr (Reference.answer_badOperand_iff.mpr ⟨hfit, hrow⟩)
  case tooShort => exact (validated hfit hrow hop .tooShort).mpr (Reference.validate_tooShort_iff.mpr hshort)
  case badPrefix =>
    have hlong := Nat.not_lt.mp fun h => hshort ⟨hop, h⟩
    exact (validated hfit hrow hop .badPrefix).mpr (Reference.validate_badPrefix_iff.mpr ⟨hlong, hmark⟩)
  case badEncoding =>
    have hlong := Nat.not_lt.mp fun h => hshort ⟨hop, h⟩
    have hmarked := not_not.mp fun h => hmark ⟨hop, h⟩
    exact (validated hfit hrow hop .badEncoding).mpr
      (Reference.validate_badEncoding_iff.mpr ⟨hlong, hmarked, (Reference.unhex_none_iff _ _).mpr hdigits⟩)
  case none =>
    by_cases hop : i.opcode = 0x05#8
    · have hlong := Nat.not_lt.mp fun h => hshort ⟨hop, h⟩
      have hmarked := not_not.mp fun h => hmark ⟨hop, h⟩
      have hpassed := Reference.validate_of_passed (p := s.par) hlong hmarked
        fun h => hdigits ⟨hop, (Reference.unhex_none_iff _ _).mp h⟩
      exact hpassed.imp (validated hfit hrow hop .ok).mpr fun h =>
        ⟨hop, (validated hfit hrow hop .checksumMismatch).mpr h⟩
    · exact .inl ((step_outcome_status_iff he hs hfit hrow .ok).mpr (Reference.outcome_ok_of_ne_unpack _ hop))

end Sys2Proof.Machine

/-!
SUPPORT. Reset and the length of commands: what an asserted and a deasserted reset leave (70_reset_and_hazards.md R170,
R173), and how many loop iterations each rule runs (R176).
-/

namespace Sys2Proof.Machine

/-! ## Reset -/

/-- `s` after reset has been asserted and deasserted (R170). -/
def State.released (s : State) : State :=
  { s.underReset with rst := false }

/-- Deasserting an asserted reset releases the block (R170). -/
theorem setReset_low_releases {s : State} (h : s.rst = true) : s.setReset false = s.released :=
  setReset_low_of_high s h

/-- Deasserting reset once it has acted, at its assertion or in a step, releases the block (R170). -/
theorem underReset_setReset_low (s : State) : s.underReset.setReset false = s.released :=
  setReset_low_releases (underReset_rst s)

/-- A released block takes the frame at the head of its port, whatever it was doing before the reset (R170). -/
theorem released_latches {s : State} {r : Request} {rest : ByteSeq} (hw : r.wf = true)
    (hin : s.reqIn = requestFrame r ++ rest) :
    ∃ v, step s.released = .next v ∧ v.Executing r ∧ v.reqIn = rest ∧ v.rspOut = s.rspOut :=
  ⟨_, idleBlockLatchesTheRequest s.released r rest rfl rfl hw hin, ⟨rfl, rfl, rfl⟩, rfl, rfl⟩

/-- Settles O14: asserted, reset leaves `underReset`, by the host's act as by a step; deasserted, it leaves `released`. -/
theorem resetAbandonsTheCommand : Obligations.ResetAbandonsTheCommand := by
  unfold Obligations.ResetAbandonsTheCommand
  intro held released
  have held_high (s : State) : held s s.underReset := ⟨rfl, rfl, rfl, rfl, rfl, rfl, rfl, rfl, rfl⟩
  have released_low (s : State) : released s s.released :=
    ⟨rfl, rfl, rfl, rfl, rfl, rfl, rfl, rfl, fun _ _ => released_latches⟩
  refine ⟨fun s => ⟨held_high s, ?pulse⟩,
    fun s hr => ⟨?low, s.underReset, step_reset hr, held_high s, ?step⟩⟩
  case pulse =>
    rw [setReset_high, underReset_setReset_low]
    exact released_low s
  case low =>
    rw [setReset_low_releases hr]
    exact released_low s
  case step =>
    rw [underReset_setReset_low]
    exact released_low s

/-! ## The iterations of each loop -/

section Loops

variable (p : Params) (c : Byte) (x : ByteSeq) (w : Work)

@[simp] theorem checksum_iters : (w.checksum x).iters = w.iters + x.length := by
  rw [checksum_eq]

@[simp] theorem deriveKey_iters : (w.deriveKey p c).iters = w.iters + 12 :=
  (congrArg Work.iters (deriveKey_regs p c w) :)

@[simp] theorem loadKey_iters : (w.loadKey x).iters = w.iters + 13 :=
  (congrArg Work.iters (loadKey_regs x w) :)

@[simp] theorem transform_iters : (w.transform x).iters = w.iters + (512 + 2 * x.length) :=
  (congrArg Work.iters (transform_regs x w) :)

@[simp] theorem transform_out_length : (w.transform x).out.length = x.length := by
  rw [transform_out, Reference.transform_length]

@[simp] theorem hexEncode_iters : (w.hexEncode x).iters = w.iters + x.length := by
  rw [hexEncode_eq]

@[simp] theorem hexDecode_iters : (w.hexDecode x).iters = w.iters + x.length / 2 := by
  rw [hexDecode_eq, digitPairs_length]

@[simp] theorem hexDecode_pay_length : (w.hexDecode x).pay.length = x.length / 2 := by
  rw [hexDecode_eq, List.length_map, digitPairs_length]

end Loops

/-! ## The iterations of each rule -/

/-- A failed operand check runs no loop, so a bound on the rule's body is one on the rule. -/
theorem checks_iters_le {long broken : Bool} {w : Work} {good : Reply} {k : Nat}
    (h : good.work.iters ≤ w.iters + k) :
    (if long then raiseStatus .overlength w
      else if broken then raiseStatus .badOperand w else good).work.iters ≤ w.iters + k := by
  cases long with
  | true => exact Nat.le_add_right _ _
  | false =>
    cases broken with
    | true => exact Nat.le_add_right _ _
    | false => exact h

section Rules

variable (p : Params) (a b : ByteSeq) (w : Work)

/-- CSUM: the checksum loop (R81). -/
theorem csumReply_iters_le : (csumReply p a b w).work.iters ≤ w.iters + a.length :=
  checks_iters_le (checksum_iters a w).le

/-- DERIVE: the derivation loop (R91). -/
theorem deriveReply_iters_le : (deriveReply p a b w).work.iters ≤ w.iters + 12 :=
  checks_iters_le (deriveKey_iters p _ w).le

/-- XFORM: the loading of the key, and the transform (R102, R103). -/
theorem xformReply_iters_le : (xformReply p a b w).work.iters ≤ w.iters + (525 + 2 * b.length) := by
  refine checks_iters_le ?_
  simp only [reply, transform_iters, loadKey_iters]
  omega

/-- PACK: the checksum, the derivation, the transform, and the digits of one byte more (R122). -/
theorem packReply_iters_le : (packReply p a b w).work.iters ≤ w.iters + (525 + 4 * a.length) := by
  refine checks_iters_le ?_
  simp only [reply, hexEncode_iters, transform_iters, transform_out_length, deriveKey_iters, checksum_iters,
    List.length_append, List.length_singleton]
  omega

/-- Stage 5 runs the checksum loop, whether the sum matches or not (R123). -/
theorem verifyStage_iters : (verifyStage w).work.iters = w.iters + w.pt.length := by
  rw [← checksum_iters]
  unfold verifyStage
  dsimp only
  split <;> rfl

/-- Stages 4 and 5: the derivation, the transform and the checksum of no more than the payload (R123). -/
theorem decryptStage_iters_le : (decryptStage p w).work.iters ≤ w.iters + (524 + 3 * w.pay.length) := by
  simp only [decryptStage, verifyStage_iters, transform_iters, transform_out_length, deriveKey_iters, List.length_drop]
  omega

/-- Stages 3 to 5: the scan of the digits, their decoding, and the stages on half as many bytes (R123). -/
theorem hexSyntaxStage_iters_le (h : ByteSeq) :
    (hexSyntaxStage p h w).work.iters ≤ w.iters + (524 + 3 * h.length) := by
  have scanned : (scanAll (isHexDigit p) h (w.startAt 0)).2.iters ≤ w.iters + h.length :=
    scanAll_iters_le (isHexDigit p) h (w.startAt 0)
  unfold hexSyntaxStage
  split
  · exact Nat.le_add_right _ _
  · dsimp only
    split
    · have decrypted := decryptStage_iters_le p ((scanAll (isHexDigit p) h (w.startAt 0)).2.hexDecode h)
      rw [hexDecode_iters, hexDecode_pay_length] at decrypted
      omega
    · simp only [raiseStatus]
      omega

/-- UNPACK: the first two stages run no loop (R123). -/
theorem unpackReply_iters_le : (unpackReply p a b w).work.iters ≤ w.iters + (524 + 3 * a.length) := by
  refine checks_iters_le ?_
  unfold unpackStages prefixStage
  split
  · exact Nat.le_add_right _ _
  · split
    · exact Nat.le_add_right _ _
    · have digits := hexSyntaxStage_iters_le p w (a.drop 1)
      rw [List.length_drop] at digits
      omega

end Rules

/-- Settles O58: every rule's own bound is at most `525 + 4 * (len(A) + len(B))`. -/
theorem loopIterationsAreBounded : Obligations.LoopIterationsAreBounded := by
  intro p a b w
  have csum := csumReply_iters_le p a b w
  have derive := deriveReply_iters_le p a b w
  have xform := xformReply_iters_le p a b w
  have pack := packReply_iters_le p a b w
  have unpack := unpackReply_iters_le p a b w
  omega

end Sys2Proof.Machine
